-- ==== Sys2Proof/Word.lean ====
section
/-! DEFINITION. The word types of the Brew CPU (spec/00_scope.md R4, spec/30_encoding.md R50, R51). -/

namespace Sys2Proof

/-- A byte of memory (R30). -/
abbrev Byte := BitVec 8

/-- An instruction parcel, 16 bits (R4, R50). -/
abbrev Parcel := BitVec 16

/-- A 32-bit word: `pc`, a byte offset, the scalar part of a register (R12, R17). -/
abbrev Word := BitVec 32

/-- A 4-bit field of a parcel (R51, R53). -/
abbrev Nibble := BitVec 4

/-- The index of a general register `$r0` .. `$r14` (R10). A field value of 0xf names no register. -/
abbrev RegIdx := Fin 15

/-- The type code of a register, 0x0 .. 0xe (R13): 0xf is never a register's type. -/
abbrev TypeCode := Fin 15

/-- Parcel 2 of a type-test group branch, cut into its four type fields (R53): `a` is bits 3:0, `d` is bits 15:12. -/
structure TypeWord where
  a : Nibble
  b : Nibble
  c : Nibble
  d : Nibble
deriving DecidableEq, Repr

end Sys2Proof
end

