-- ==== Sys2Proof/Config.lean ====
section
/-! DEFINITION. The parameters the spec leaves open (spec/00_scope.md R5, spec/92_eei_decisions.md). The ones that are
data stand in the structure `Config`, which a state carries and no step writes; those whose value the spec leaves
open are opaque constants, of which nothing can be proved. -/

namespace Sys2Proof

/-- `BYTE_ORDER` (R5, R33, D1): which byte of a parcel lies at the lower address. -/
inductive ByteOrder where
  | little
  | big
deriving DecidableEq, Repr

/-- `BRANCH_BASE` (R5, R101, D2): the address that a taken branch adds its offset to. -/
inductive BranchBase where
  | thisInsn
  | nextInsn
deriving DecidableEq, Repr

/-- `TYPE_MASK_LSB` (R5, R54, D6): the bit of `FIELD_F` that stands for type code 0. -/
inductive MaskPlacement where
  | lsb0
  | lsb1
deriving DecidableEq, Repr

/-- The shape of a type (R5, R103). -/
inductive Shape where
  | scalar
  | vector
deriving DecidableEq, Repr

/-- The kind of a type's lanes (R5, R107, R109). -/
inductive Kind where
  | fixed
  | float
deriving DecidableEq, Repr

/-- The nominal signedness of a type (R5, R14). No conditional branch reads it (R107). -/
inductive Signedness where
  | unsigned
  | signed
deriving DecidableEq, Repr

/-- A type descriptor, an entry of `TYPE_TABLE` (R5): shape, kind, lane width in bits, nominal signedness. -/
structure Descriptor where
  shape : Shape
  kind : Kind
  width : Nat
  sign : Option Signedness
deriving DecidableEq, Repr

/-- `T_I32`, a placeholder descriptor of the spec's examples (R5): scalar, fixed point, 32 bits. -/
def Descriptor.tI32 : Descriptor := { shape := .scalar, kind := .fixed, width := 32, sign := none }

/-- `T_V16` (R5): vector, fixed point, lanes of 16 bits. -/
def Descriptor.tV16 : Descriptor := { shape := .vector, kind := .fixed, width := 16, sign := none }

/-- `T_V8` (R5): vector, fixed point, lanes of 8 bits. -/
def Descriptor.tV8 : Descriptor := { shape := .vector, kind := .fixed, width := 8, sign := none }

/-- `T_F32` (R5): scalar, floating point, 32 bits. -/
def Descriptor.tF32 : Descriptor := { shape := .scalar, kind := .float, width := 32, sign := none }

/-- The aggregation of the per-lane or per-register conditions (R105, R170). -/
inductive Aggregation where
  | any
  | all
deriving DecidableEq, Repr

/-- The six relations of the compare-with-zero branches (R110, R120). -/
inductive ZeroRel where
  | eqz
  | nez
  | ltz
  | gez
  | gtz
  | lez
deriving DecidableEq, Repr

/-- The six relations of the register-register branches (R110, R140). -/
inductive RegRel where
  | eq
  | ne
  | lts
  | ges
  | ltu
  | geu
deriving DecidableEq, Repr

/-- The two relations of the type-test group branches (R170). -/
inductive TypeRel where
  | ne
  | eq
deriving DecidableEq, Repr

/-- The ids of the 24 compare branches (R61), as `FLOAT_CMP` takes them (R109). -/
inductive CompareId where
  | zero (agg : Aggregation) (rel : ZeroRel)
  | reg (agg : Aggregation) (rel : RegRel)
deriving DecidableEq, Repr

/-- What `CBRANCH_TYPE_RULE` answers (R5, R102): compare under a descriptor (`none` when `TYPE_TABLE` has none for the
code), or `ExcType`. -/
inductive TypeRuling where
  | compare (d : Option Descriptor)
  | excType
deriving DecidableEq, Repr

/-- One entry of `CBRANCH_TYPE_RULE` that a configuration sets: the operand types (`left = none` for a
compare-with-zero branch) and the answer. -/
structure TypeRuleEntry where
  left : Option TypeCode
  right : TypeCode
  ruling : TypeRuling
deriving DecidableEq, Repr

/-- One value of `ACTIVE_LANES` that a configuration sets. -/
structure LaneCountEntry where
  desc : Descriptor
  vend : Nat
  lanes : Nat
deriving DecidableEq, Repr

/-- The configuration (R5): fixed for the machine, carried by the state, written by no step.
Log entries 1 (why it stands in the state), 2, 3, 7, 9, 11, 14, 15, 24. -/
structure Config where
  /-- `BYTE_ORDER`. -/
  byteOrder : ByteOrder
  /-- `BRANCH_BASE`. -/
  branchBase : BranchBase
  /-- `VLEN_BITS / 32 - 1`: the 32-bit words of a register value above its scalar part (R12). -/
  upperWords : Nat
  /-- `TYPE_TABLE`, one entry for each type code 0x0 .. 0xe. -/
  typeTable : Vector (Option Descriptor) 15
  /-- `CBRANCH_TYPE_RULE`: the operand types at which it differs from the default rule of R102. -/
  typeRules : List TypeRuleEntry
  /-- `ACTIVE_LANES`: the arguments at which its value is set; at all others it is the free value `Config.freeLanes`. -/
  laneCounts : List LaneCountEntry
  /-- `TYPE_MASK_LSB`. -/
  maskPlacement : MaskPlacement
  /-- `HALT_SET`, the addresses at which a run ends (R227). -/
  haltSet : List Word
deriving DecidableEq, Repr

/-- `VLEN_BITS` (R5, R12): a multiple of 32, at least 32. -/
def Config.vlenBits (c : Config) : Nat := 32 * (c.upperWords + 1)

/-- `FLOAT_CMP` (R109, D11): uninterpreted. The id of the instruction, the lane width, the lane of `$rB` (`none` in a
compare with zero), the lane of `$rA`. A FREE VALUE, log entry 13. -/
opaque Config.floatCmp (id : CompareId) (w : Nat) (b : Option (BitVec w)) (a : BitVec w) : Bool

/-- `ACTIVE_LANES` at the arguments a configuration does not set (R103, D12), before the bound `VLEN_BITS / w` is
applied, where it has a value (log entry 38). A FREE VALUE, log entry 15. -/
opaque Config.freeLanes (d : Descriptor) (vend : Nat) : Nat

/-- A lane that does not lie in its register value (R108 slices bits the value does not have): the lane width, the
number of the lane, the words of the value. A FREE VALUE, log entry 36. -/
opaque Config.freeLane (w i : Nat) (value : List Word) : BitVec w

end Sys2Proof
end

