-- ==== Sys2Proof/Syntax.lean ====
section
/-! DEFINITION. The 43 instructions of the chapter "Conditional Branch Instructions" (spec/30_encoding.md R61), in the
order of spec/opcode_table.json. A register operand is the index of its register; `value` is the byte offset VALUE
(= br_offs, spec/00_scope.md R8), decoded from `FIELD_E`; `c` is the bit position, decoded from `FIELD_C`. -/

namespace Sys2Proof

/-- The instructions (R61). -/
inductive Instr where
  /-- `CB_ANY_EQZ`: if any $rA == 0 $pc <- $pc + VALUE (R121). -/
  | cbAnyEqz (ra : RegIdx) (value : Word)
  /-- `CB_ANY_NEZ`: if any $rA != 0 $pc <- $pc + VALUE (R122). -/
  | cbAnyNez (ra : RegIdx) (value : Word)
  /-- `CB_ANY_LTZ`: if any $rA < 0 $pc <- $pc + VALUE (R123). -/
  | cbAnyLtz (ra : RegIdx) (value : Word)
  /-- `CB_ANY_GEZ`: if any $rA >= 0 $pc <- $pc + VALUE (R124). -/
  | cbAnyGez (ra : RegIdx) (value : Word)
  /-- `CB_ANY_GTZ`: if any $rA > 0 $pc <- $pc + VALUE (R125). -/
  | cbAnyGtz (ra : RegIdx) (value : Word)
  /-- `CB_ANY_LEZ`: if any $rA <= 0 $pc <- $pc + VALUE (R126). -/
  | cbAnyLez (ra : RegIdx) (value : Word)
  /-- `CB_ALL_EQZ`: if all $rA == 0 $pc <- $pc + VALUE (R127). -/
  | cbAllEqz (ra : RegIdx) (value : Word)
  /-- `CB_ALL_NEZ`: if all $rA != 0 $pc <- $pc + VALUE (R128). -/
  | cbAllNez (ra : RegIdx) (value : Word)
  /-- `CB_ALL_LTZ`: if all $rA < 0 $pc <- $pc + VALUE (R129). -/
  | cbAllLtz (ra : RegIdx) (value : Word)
  /-- `CB_ALL_GEZ`: if all $rA >= 0 $pc <- $pc + VALUE (R130). -/
  | cbAllGez (ra : RegIdx) (value : Word)
  /-- `CB_ALL_GTZ`: if all $rA > 0 $pc <- $pc + VALUE (R131). -/
  | cbAllGtz (ra : RegIdx) (value : Word)
  /-- `CB_ALL_LEZ`: if all $rA <= 0 $pc <- $pc + VALUE (R132). -/
  | cbAllLez (ra : RegIdx) (value : Word)
  /-- `CB_ANY_EQ`: if any $rB == $rA $pc <- $pc + VALUE (R141). -/
  | cbAnyEq (rb ra : RegIdx) (value : Word)
  /-- `CB_ANY_NE`: if any $rB != $rA $pc <- $pc + VALUE (R142). -/
  | cbAnyNe (rb ra : RegIdx) (value : Word)
  /-- `CB_ANY_LTS`: if any signed $rB < $rA $pc <- $pc + VALUE (R143). -/
  | cbAnyLts (rb ra : RegIdx) (value : Word)
  /-- `CB_ANY_GES`: if any signed $rB >= $rA $pc <- $pc + VALUE (R144). -/
  | cbAnyGes (rb ra : RegIdx) (value : Word)
  /-- `CB_ANY_LTU`: if any $rB < $rA $pc <- $pc + VALUE (R145). -/
  | cbAnyLtu (rb ra : RegIdx) (value : Word)
  /-- `CB_ANY_GEU`: if any $rB >= $rA $pc <- $pc + VALUE (R146). -/
  | cbAnyGeu (rb ra : RegIdx) (value : Word)
  /-- `CB_ALL_EQ`: if all $rB == $rA $pc <- $pc + VALUE (R147). -/
  | cbAllEq (rb ra : RegIdx) (value : Word)
  /-- `CB_ALL_NE`: if all $rB != $rA $pc <- $pc + VALUE (R148). -/
  | cbAllNe (rb ra : RegIdx) (value : Word)
  /-- `CB_ALL_LTS`: if all signed $rB < $rA $pc <- $pc + VALUE (R149). -/
  | cbAllLts (rb ra : RegIdx) (value : Word)
  /-- `CB_ALL_GES`: if all signed $rB >= $rA $pc <- $pc + VALUE (R150). -/
  | cbAllGes (rb ra : RegIdx) (value : Word)
  /-- `CB_ALL_LTU`: if all $rB < $rA $pc <- $pc + VALUE (R151). -/
  | cbAllLtu (rb ra : RegIdx) (value : Word)
  /-- `CB_ALL_GEU`: if all $rB >= $rA $pc <- $pc + VALUE (R152). -/
  | cbAllGeu (rb ra : RegIdx) (value : Word)
  /-- `CB_BIT1`: if $rA[C] == 1 $pc <- $pc + VALUE (R161). -/
  | cbBit1 (ra : RegIdx) (c : Fin 32) (value : Word)
  /-- `CB_BIT0`: if $rB[C] == 0 $pc <- $pc + VALUE (R162). -/
  | cbBit0 (rb : RegIdx) (c : Fin 32) (value : Word)
  /-- `CB_TANY_NE_G0`: if any type $r0...$r3 != types $pc <- $pc + br_offs (R173). -/
  | cbTanyNeG0 (value : Word) (types : TypeWord)
  /-- `CB_TALL_NE_G0`: if all type $r0...$r3 != types $pc <- $pc + br_offs (R174). -/
  | cbTallNeG0 (value : Word) (types : TypeWord)
  /-- `CB_TMASK`: if type $rD not in FIELD_F $pc <- $pc + FIELD_E (R175). -/
  | cbTmask (rd : RegIdx) (value : Word) (fieldF : Parcel)
  /-- `CB_TANY_NE_G1`: if any type $r4...$r7 != types $pc <- $pc + br_offs (R176). -/
  | cbTanyNeG1 (value : Word) (types : TypeWord)
  /-- `CB_TALL_NE_G1`: if all type $r4...$r7 != types $pc <- $pc + br_offs (R177). -/
  | cbTallNeG1 (value : Word) (types : TypeWord)
  /-- `CB_TANY_NE_G2`: if any type $r8...$r11 != types $pc <- $pc + br_offs (R178). -/
  | cbTanyNeG2 (value : Word) (types : TypeWord)
  /-- `CB_TALL_NE_G2`: if all type $r8...$r11 != types $pc <- $pc + br_offs (R179). -/
  | cbTallNeG2 (value : Word) (types : TypeWord)
  /-- `CB_TANY_NE_G3`: if any type $r12...$r14 != types $pc <- $pc + br_offs (R180). -/
  | cbTanyNeG3 (value : Word) (types : TypeWord)
  /-- `CB_TALL_NE_G3`: if all type $r12...$r14 != types $pc <- $pc + br_offs (R181). -/
  | cbTallNeG3 (value : Word) (types : TypeWord)
  /-- `CB_TANY_EQ_G0`: if any type $r0...$r3 == types $pc <- $pc + br_offs (R182). -/
  | cbTanyEqG0 (value : Word) (types : TypeWord)
  /-- `CB_TALL_EQ_G0`: if all type $r0...$r3 == types $pc <- $pc + br_offs (R183). -/
  | cbTallEqG0 (value : Word) (types : TypeWord)
  /-- `CB_TANY_EQ_G1`: if any type $r4...$r7 == types $pc <- $pc + br_offs (R184). -/
  | cbTanyEqG1 (value : Word) (types : TypeWord)
  /-- `CB_TALL_EQ_G1`: if all type $r4...$r7 == types $pc <- $pc + br_offs (R185). -/
  | cbTallEqG1 (value : Word) (types : TypeWord)
  /-- `CB_TANY_EQ_G2`: if any type $r8...$r11 == types $pc <- $pc + br_offs (R186). -/
  | cbTanyEqG2 (value : Word) (types : TypeWord)
  /-- `CB_TALL_EQ_G2`: if all type $r8...$r11 == types $pc <- $pc + br_offs (R187). -/
  | cbTallEqG2 (value : Word) (types : TypeWord)
  /-- `CB_TANY_EQ_G3`: if any type $r12...$r14 == types $pc <- $pc + br_offs (R188). -/
  | cbTanyEqG3 (value : Word) (types : TypeWord)
  /-- `CB_TALL_EQ_G3`: if all type $r12...$r14 == types $pc <- $pc + br_offs (R189). -/
  | cbTallEqG3 (value : Word) (types : TypeWord)
deriving DecidableEq, Repr

end Sys2Proof
end

