-- ==== Sys2Proof/WellFormed.lean ====
section
/-! DEFINITION. Well-formed instructions: those that have an encoding (spec/30_encoding.md R57, R60). A register operand
is in range by its type. -/

namespace Sys2Proof

/-- `BrOffset(FIELD_E) = VALUE` for some `FIELD_E`: VALUE is even and -65536 <= signed(VALUE) <= 65534 (R57). -/
def encodableOffset (v : Word) : Bool :=
  v.getLsbD 0 == false && decide (-65536 ≤ v.toInt) && decide (v.toInt ≤ 65534)

/-- The bit positions that have a row in the table of R60. -/
def testableBit (c : Fin 32) : Bool :=
  [0, 1, 2, 3, 4, 5, 6, 7, 8, 9, 14, 15, 16, 30, 31].contains c.val

/-- The byte offset VALUE of an instruction: every one of the 43 has one (R52). -/
def Instr.value : Instr → Word
  | .cbAnyEqz _ v | .cbAnyNez _ v | .cbAnyLtz _ v | .cbAnyGez _ v | .cbAnyGtz _ v | .cbAnyLez _ v | .cbAllEqz _ v
  | .cbAllNez _ v | .cbAllLtz _ v | .cbAllGez _ v | .cbAllGtz _ v | .cbAllLez _ v => v
  | .cbAnyEq _ _ v | .cbAnyNe _ _ v | .cbAnyLts _ _ v | .cbAnyGes _ _ v | .cbAnyLtu _ _ v | .cbAnyGeu _ _ v
  | .cbAllEq _ _ v | .cbAllNe _ _ v | .cbAllLts _ _ v | .cbAllGes _ _ v | .cbAllLtu _ _ v | .cbAllGeu _ _ v => v
  | .cbBit1 _ _ v | .cbBit0 _ _ v => v
  | .cbTanyNeG0 v _ | .cbTallNeG0 v _ | .cbTmask _ v _ | .cbTanyNeG1 v _ | .cbTallNeG1 v _ | .cbTanyNeG2 v _
  | .cbTallNeG2 v _ | .cbTanyNeG3 v _ | .cbTallNeG3 v _ | .cbTanyEqG0 v _ | .cbTallEqG0 v _ | .cbTanyEqG1 v _
  | .cbTallEqG1 v _ | .cbTanyEqG2 v _ | .cbTallEqG2 v _ | .cbTanyEqG3 v _ | .cbTallEqG3 v _ => v

/-- The bit position that a bit-test branch tests (R160); no other instruction has one. -/
def Instr.testedBit : Instr → Option (Fin 32)
  | .cbAnyEqz .. | .cbAnyNez .. | .cbAnyLtz .. | .cbAnyGez .. | .cbAnyGtz .. | .cbAnyLez .. | .cbAllEqz ..
  | .cbAllNez .. | .cbAllLtz .. | .cbAllGez .. | .cbAllGtz .. | .cbAllLez .. | .cbAnyEq .. | .cbAnyNe ..
  | .cbAnyLts .. | .cbAnyGes .. | .cbAnyLtu .. | .cbAnyGeu .. | .cbAllEq .. | .cbAllNe .. | .cbAllLts ..
  | .cbAllGes .. | .cbAllLtu .. | .cbAllGeu .. => none
  | .cbBit1 _ c _ | .cbBit0 _ c _ => some c
  | .cbTanyNeG0 .. | .cbTallNeG0 .. | .cbTmask .. | .cbTanyNeG1 .. | .cbTallNeG1 .. | .cbTanyNeG2 .. | .cbTallNeG2 ..
  | .cbTanyNeG3 .. | .cbTallNeG3 .. | .cbTanyEqG0 .. | .cbTallEqG0 .. | .cbTanyEqG1 .. | .cbTallEqG1 ..
  | .cbTanyEqG2 .. | .cbTallEqG2 .. | .cbTanyEqG3 .. | .cbTallEqG3 .. => none

/-- The instruction has an encoding: its offset can be encoded (R57), and so can its bit position (R60). -/
def Instr.wf (i : Instr) : Bool :=
  encodableOffset i.value && (match i.testedBit with | some c => testableBit c | none => true)

end Sys2Proof
end

