-- ==== Sys2Proof/Decode.lean ====
section
/-! DEFINITION. The decoder (spec/30_encoding.md R50 to R60) and, after it, the encoder, both written from the encoding
tables of the spec; the byte order of a parcel (spec/20_memory.md R33). -/

namespace Sys2Proof

/-- Why a sequence of parcels is no instruction. `unknown` and `notInChapter` are R58's two answers, with the code
word; `missingParcel`: the parcels end before the instruction does (R35). -/
inductive DecodeError where
  | unknown (w0 : Parcel)
  | notInChapter (w0 : Parcel)
  | missingParcel
deriving DecidableEq, Repr

/-! ### Fields -/

/-- `FIELD_A`, bits 3:0 of parcel 0 (R51). -/
def fieldA (w : Parcel) : Nibble := w.extractLsb' 0 4

/-- `FIELD_B`, bits 7:4 of parcel 0 (R51). -/
def fieldB (w : Parcel) : Nibble := w.extractLsb' 4 4

/-- `FIELD_C`, bits 11:8 of parcel 0 (R51). -/
def fieldC (w : Parcel) : Nibble := w.extractLsb' 8 4

/-- `FIELD_D`, bits 15:12 of parcel 0 (R51). -/
def fieldD (w : Parcel) : Nibble := w.extractLsb' 12 4

/-- The four type fields of parcel 2 of a group branch (R53). -/
def typeWord (f : Parcel) : TypeWord :=
  { a := f.extractLsb' 0 4, b := f.extractLsb' 4 4, c := f.extractLsb' 8 4, d := f.extractLsb' 12 4 }

/-- The register a field names: 0xf names none (R10, R55). -/
def reg? (n : Nibble) : Option RegIdx :=
  if h : n.toNat < 15 then some ⟨n.toNat, h⟩ else none

/-- `BrOffset(E)` = `sext_32(E[0], E[15:1], 0)` (R56). Log 6 for the type-test branches. -/
def brOffset (e : Parcel) : Word :=
  (e.extractLsb' 0 1 ++ e.extractLsb' 1 15 ++ 0#1 : BitVec 17).signExtend 32

/-- `BitPos(FIELD_C)` (R60); the code 0xf has no row. -/
def bitPos (c : Nibble) : Option (Fin 32) :=
  match c.toNat with
  | 0x0 => some 0 | 0x1 => some 1 | 0x2 => some 2 | 0x3 => some 3 | 0x4 => some 4
  | 0x5 => some 5 | 0x6 => some 6 | 0x7 => some 7 | 0x8 => some 8 | 0x9 => some 9
  | 0xa => some 14 | 0xb => some 15 | 0xc => some 16 | 0xd => some 30 | 0xe => some 31
  | _ => none

/-! ### The opcode map -/

/-- What parcel 0 decides (R59): a 32-bit instruction that still lacks its offset, or a 48-bit one that lacks its
offset and parcel 2. -/
inductive Form where
  | short (mk : Word → Instr)
  | long (mk : Word → Parcel → Instr)

/-- `0xf0B.` with a register in `FIELD_A`: compare with zero (R58, R120). -/
def decodeZero (w0 : Parcel) (b : Nibble) (ra : RegIdx) : Except DecodeError Form :=
  match b.toNat with
  | 0x0 => .ok (.short (.cbAnyEqz ra))
  | 0x1 => .ok (.short (.cbAnyNez ra))
  | 0x2 => .ok (.short (.cbAnyLtz ra))
  | 0x3 => .ok (.short (.cbAnyGez ra))
  | 0x4 => .ok (.short (.cbAnyGtz ra))
  | 0x5 => .ok (.short (.cbAnyLez ra))
  | 0x8 => .ok (.short (.cbAllEqz ra))
  | 0x9 => .ok (.short (.cbAllNez ra))
  | 0xa => .ok (.short (.cbAllLtz ra))
  | 0xb => .ok (.short (.cbAllGez ra))
  | 0xc => .ok (.short (.cbAllGtz ra))
  | 0xd => .ok (.short (.cbAllLez ra))
  | _ => .error (.unknown w0)

/-- `0xfC..` with registers in both fields and C not 0: register-register compare (R58, R140). -/
def decodeReg (w0 : Parcel) (c : Nibble) (rb ra : RegIdx) : Except DecodeError Form :=
  match c.toNat with
  | 0x1 => .ok (.short (.cbAnyEq rb ra))
  | 0x2 => .ok (.short (.cbAnyNe rb ra))
  | 0x3 => .ok (.short (.cbAnyLts rb ra))
  | 0x4 => .ok (.short (.cbAnyGes rb ra))
  | 0x5 => .ok (.short (.cbAnyLtu rb ra))
  | 0x6 => .ok (.short (.cbAnyGeu rb ra))
  | 0x9 => .ok (.short (.cbAllEq rb ra))
  | 0xa => .ok (.short (.cbAllNe rb ra))
  | 0xb => .ok (.short (.cbAllLts rb ra))
  | 0xc => .ok (.short (.cbAllGes rb ra))
  | 0xd => .ok (.short (.cbAllLtu rb ra))
  | 0xe => .ok (.short (.cbAllGeu rb ra))
  | _ => .error (.unknown w0)

/-- The code words with `FIELD_D = 0xf`, the 32-bit branches (R58): 0xf in a register field marks the bit tests, which
win over the compares. -/
def decodeShort (w0 : Parcel) (c b a : Nibble) : Except DecodeError Form :=
  match reg? b, reg? a with
  | none, none => .error (.unknown w0)
  | some rb, none =>
    match bitPos c with
    | none => .error (.unknown w0)
    | some p => .ok (.short (.cbBit0 rb p))
  | none, some ra =>
    match bitPos c with
    | none => .error (.unknown w0)
    | some p => .ok (.short (.cbBit1 ra p))
  | some rb, some ra => if c = 0x0#4 then decodeZero w0 b ra else decodeReg w0 c rb ra

/-- `0xD01f`: the group branches that aggregate by any (R58, R170). -/
def decodeGroupAny (w0 : Parcel) (d : Nibble) : Except DecodeError Form :=
  match d.toNat with
  | 0 => .ok (.long fun v f => .cbTanyNeG0 v (typeWord f))
  | 1 => .ok (.long fun v f => .cbTanyNeG1 v (typeWord f))
  | 2 => .ok (.long fun v f => .cbTanyNeG2 v (typeWord f))
  | 3 => .ok (.long fun v f => .cbTanyNeG3 v (typeWord f))
  | 4 => .ok (.long fun v f => .cbTanyEqG0 v (typeWord f))
  | 5 => .ok (.long fun v f => .cbTanyEqG1 v (typeWord f))
  | 6 => .ok (.long fun v f => .cbTanyEqG2 v (typeWord f))
  | 7 => .ok (.long fun v f => .cbTanyEqG3 v (typeWord f))
  | _ => .error (.unknown w0)

/-- `0xD02f`: the group branches that aggregate by all (R58, R170). -/
def decodeGroupAll (w0 : Parcel) (d : Nibble) : Except DecodeError Form :=
  match d.toNat with
  | 0 => .ok (.long fun v f => .cbTallNeG0 v (typeWord f))
  | 1 => .ok (.long fun v f => .cbTallNeG1 v (typeWord f))
  | 2 => .ok (.long fun v f => .cbTallNeG2 v (typeWord f))
  | 3 => .ok (.long fun v f => .cbTallNeG3 v (typeWord f))
  | 4 => .ok (.long fun v f => .cbTallEqG0 v (typeWord f))
  | 5 => .ok (.long fun v f => .cbTallEqG1 v (typeWord f))
  | 6 => .ok (.long fun v f => .cbTallEqG2 v (typeWord f))
  | 7 => .ok (.long fun v f => .cbTallEqG3 v (typeWord f))
  | _ => .error (.unknown w0)

/-- The code words `0xD0Bf` with `FIELD_D` not 0xf, the 48-bit branches (R58). -/
def decodeLong (w0 : Parcel) (d b : Nibble) : Except DecodeError Form :=
  match b.toNat with
  | 1 => decodeGroupAny w0 d
  | 2 => decodeGroupAll w0 d
  | 3 =>
    match reg? d with
    | some rd => .ok (.long (.cbTmask rd))
    | none => .error (.notInChapter w0)
  | _ => .error (.notInChapter w0)

/-- `Decode(w0)` (R58). -/
def decodeForm (w0 : Parcel) : Except DecodeError Form :=
  if fieldD w0 = 0xf#4 then decodeShort w0 (fieldC w0) (fieldB w0) (fieldA w0)
  else if fieldA w0 = 0xf#4 ∧ fieldC w0 = 0x0#4 then decodeLong w0 (fieldD w0) (fieldB w0)
  else .error (.notInChapter w0)

/-- The instruction at the head of a sequence of parcels, and the parcels after it. -/
def decode : List Parcel → Except DecodeError (Instr × List Parcel)
  | [] => .error .missingParcel
  | w0 :: rest =>
    match decodeForm w0 with
    | .error err => .error err
    | .ok (.short mk) =>
      match rest with
      | e :: rest => .ok (mk (brOffset e), rest)
      | [] => .error .missingParcel
    | .ok (.long mk) =>
      match rest with
      | e :: f :: rest => .ok (mk (brOffset e) f, rest)
      | _ => .error .missingParcel

/-! ### Bytes -/

/-- A parcel from its bytes, the one at the lower address first (R33). Log 2. -/
def joinBytes (o : ByteOrder) (lo hi : Byte) : Parcel :=
  match o with
  | .little => hi ++ lo
  | .big => lo ++ hi

/-- The bytes of a parcel, the one at the lower address first (R33). Log 2. -/
def splitParcel (o : ByteOrder) (p : Parcel) : Byte × Byte :=
  match o with
  | .little => (p.extractLsb' 0 8, p.extractLsb' 8 8)
  | .big => (p.extractLsb' 8 8, p.extractLsb' 0 8)

/-- The parcels that a sequence of bytes holds; a last single byte is no parcel (R32, R33). -/
def parcelsOfBytes (o : ByteOrder) : List Byte → List Parcel
  | b0 :: b1 :: bs => joinBytes o b0 b1 :: parcelsOfBytes o bs
  | _ => []

/-- The bytes of a sequence of parcels, at increasing addresses (R32, R33). -/
def bytesOfParcels (o : ByteOrder) : List Parcel → List Byte
  | [] => []
  | p :: ps => (splitParcel o p).1 :: (splitParcel o p).2 :: bytesOfParcels o ps

/-- The decoder on bytes: total, and rejecting by name. -/
def decodeBytes (o : ByteOrder) (bs : List Byte) : Except DecodeError (Instr × List Parcel) :=
  decode (parcelsOfBytes o bs)

/-- The three parcels of an instruction whose first `nbits` bits are `w`, bit 0 the least significant bit of parcel 0;
the bits above `nbits` are 0. -/
def tableParcels (nbits w : Nat) : List Parcel :=
  [BitVec.ofNat 16 (w % 2 ^ nbits), BitVec.ofNat 16 (w % 2 ^ nbits / 2 ^ 16), BitVec.ofNat 16 (w % 2 ^ nbits / 2 ^ 32)]

/-- What the decoder reads from the instruction whose bits are `w`, numbered as spec/opcode_table.json numbers them. -/
def decodeTableWord (nbits w : Nat) : Option Instr :=
  match decodeBytes .little (bytesOfParcels .little (tableParcels nbits w)) with
  | .ok (i, _) => some i
  | .error _ => none

/-! ### The encoder -/

/-- Parcel 0 from its four fields, `FIELD_D` the most significant (R51). -/
def codeWord (d c b a : Nibble) : Parcel := d ++ c ++ b ++ a

/-- A register field (R55). -/
def regField (r : RegIdx) : Nibble := BitVec.ofNat 4 r.val

/-- `FIELD_E = (VALUE & 0xfffe) | ((VALUE >> 31) & 1)` (R57). -/
def encodeOffset (v : Word) : Parcel :=
  ((v &&& 0xfffe#32) ||| ((v >>> 31) &&& 1#32)).setWidth 16

/-- The `FIELD_C` code of a bit position (R60); 0xf, which decodes to no instruction, for a position without one. -/
def bitCode (c : Fin 32) : Nibble :=
  match c.val with
  | 0 => 0x0#4 | 1 => 0x1#4 | 2 => 0x2#4 | 3 => 0x3#4 | 4 => 0x4#4
  | 5 => 0x5#4 | 6 => 0x6#4 | 7 => 0x7#4 | 8 => 0x8#4 | 9 => 0x9#4
  | 14 => 0xa#4 | 15 => 0xb#4 | 16 => 0xc#4 | 30 => 0xd#4 | 31 => 0xe#4
  | _ => 0xf#4

/-- `FIELD_B` of a compare-with-zero branch (R120). -/
def zeroSelector (agg : Aggregation) (rel : ZeroRel) : Nibble :=
  match agg, rel with
  | .any, .eqz => 0x0#4
  | .any, .nez => 0x1#4
  | .any, .ltz => 0x2#4
  | .any, .gez => 0x3#4
  | .any, .gtz => 0x4#4
  | .any, .lez => 0x5#4
  | .all, .eqz => 0x8#4
  | .all, .nez => 0x9#4
  | .all, .ltz => 0xa#4
  | .all, .gez => 0xb#4
  | .all, .gtz => 0xc#4
  | .all, .lez => 0xd#4

/-- `FIELD_C` of a register-register branch (R140). -/
def regSelector (agg : Aggregation) (rel : RegRel) : Nibble :=
  match agg, rel with
  | .any, .eq => 0x1#4
  | .any, .ne => 0x2#4
  | .any, .lts => 0x3#4
  | .any, .ges => 0x4#4
  | .any, .ltu => 0x5#4
  | .any, .geu => 0x6#4
  | .all, .eq => 0x9#4
  | .all, .ne => 0xa#4
  | .all, .lts => 0xb#4
  | .all, .ges => 0xc#4
  | .all, .ltu => 0xd#4
  | .all, .geu => 0xe#4

/-- Parcel 0 of a compare-with-zero branch (R120). -/
def zeroWord (agg : Aggregation) (rel : ZeroRel) (ra : RegIdx) : Parcel :=
  codeWord 0xf#4 0x0#4 (zeroSelector agg rel) (regField ra)

/-- Parcel 0 of a register-register branch (R140). -/
def regWord (agg : Aggregation) (rel : RegRel) (rb ra : RegIdx) : Parcel :=
  codeWord 0xf#4 (regSelector agg rel) (regField rb) (regField ra)

/-- Parcel 0 of a group branch: `FIELD_D` bit 2 the relation, bits 1:0 the group, `FIELD_B` the aggregation (R170). -/
def groupWord (agg : Aggregation) (rel : TypeRel) (g : Fin 4) : Parcel :=
  codeWord (BitVec.ofNat 4 (g.val + match rel with | .ne => 0 | .eq => 4)) 0x0#4
    (match agg with | .any => 0x1#4 | .all => 0x2#4) 0xf#4

/-- Parcel 2 of a group branch (R53). -/
def typeParcel (t : TypeWord) : Parcel := t.d ++ t.c ++ t.b ++ t.a

/-- The parcels of an instruction, at increasing addresses (R32, R61). -/
def Instr.parcels : Instr → List Parcel
  | .cbAnyEqz ra v => [zeroWord .any .eqz ra, encodeOffset v]
  | .cbAnyNez ra v => [zeroWord .any .nez ra, encodeOffset v]
  | .cbAnyLtz ra v => [zeroWord .any .ltz ra, encodeOffset v]
  | .cbAnyGez ra v => [zeroWord .any .gez ra, encodeOffset v]
  | .cbAnyGtz ra v => [zeroWord .any .gtz ra, encodeOffset v]
  | .cbAnyLez ra v => [zeroWord .any .lez ra, encodeOffset v]
  | .cbAllEqz ra v => [zeroWord .all .eqz ra, encodeOffset v]
  | .cbAllNez ra v => [zeroWord .all .nez ra, encodeOffset v]
  | .cbAllLtz ra v => [zeroWord .all .ltz ra, encodeOffset v]
  | .cbAllGez ra v => [zeroWord .all .gez ra, encodeOffset v]
  | .cbAllGtz ra v => [zeroWord .all .gtz ra, encodeOffset v]
  | .cbAllLez ra v => [zeroWord .all .lez ra, encodeOffset v]
  | .cbAnyEq rb ra v => [regWord .any .eq rb ra, encodeOffset v]
  | .cbAnyNe rb ra v => [regWord .any .ne rb ra, encodeOffset v]
  | .cbAnyLts rb ra v => [regWord .any .lts rb ra, encodeOffset v]
  | .cbAnyGes rb ra v => [regWord .any .ges rb ra, encodeOffset v]
  | .cbAnyLtu rb ra v => [regWord .any .ltu rb ra, encodeOffset v]
  | .cbAnyGeu rb ra v => [regWord .any .geu rb ra, encodeOffset v]
  | .cbAllEq rb ra v => [regWord .all .eq rb ra, encodeOffset v]
  | .cbAllNe rb ra v => [regWord .all .ne rb ra, encodeOffset v]
  | .cbAllLts rb ra v => [regWord .all .lts rb ra, encodeOffset v]
  | .cbAllGes rb ra v => [regWord .all .ges rb ra, encodeOffset v]
  | .cbAllLtu rb ra v => [regWord .all .ltu rb ra, encodeOffset v]
  | .cbAllGeu rb ra v => [regWord .all .geu rb ra, encodeOffset v]
  | .cbBit1 ra c v => [codeWord 0xf#4 (bitCode c) 0xf#4 (regField ra), encodeOffset v]
  | .cbBit0 rb c v => [codeWord 0xf#4 (bitCode c) (regField rb) 0xf#4, encodeOffset v]
  | .cbTanyNeG0 v t => [groupWord .any .ne 0, encodeOffset v, typeParcel t]
  | .cbTallNeG0 v t => [groupWord .all .ne 0, encodeOffset v, typeParcel t]
  | .cbTmask rd v f => [codeWord (regField rd) 0x0#4 0x3#4 0xf#4, encodeOffset v, f]
  | .cbTanyNeG1 v t => [groupWord .any .ne 1, encodeOffset v, typeParcel t]
  | .cbTallNeG1 v t => [groupWord .all .ne 1, encodeOffset v, typeParcel t]
  | .cbTanyNeG2 v t => [groupWord .any .ne 2, encodeOffset v, typeParcel t]
  | .cbTallNeG2 v t => [groupWord .all .ne 2, encodeOffset v, typeParcel t]
  | .cbTanyNeG3 v t => [groupWord .any .ne 3, encodeOffset v, typeParcel t]
  | .cbTallNeG3 v t => [groupWord .all .ne 3, encodeOffset v, typeParcel t]
  | .cbTanyEqG0 v t => [groupWord .any .eq 0, encodeOffset v, typeParcel t]
  | .cbTallEqG0 v t => [groupWord .all .eq 0, encodeOffset v, typeParcel t]
  | .cbTanyEqG1 v t => [groupWord .any .eq 1, encodeOffset v, typeParcel t]
  | .cbTallEqG1 v t => [groupWord .all .eq 1, encodeOffset v, typeParcel t]
  | .cbTanyEqG2 v t => [groupWord .any .eq 2, encodeOffset v, typeParcel t]
  | .cbTallEqG2 v t => [groupWord .all .eq 2, encodeOffset v, typeParcel t]
  | .cbTanyEqG3 v t => [groupWord .any .eq 3, encodeOffset v, typeParcel t]
  | .cbTallEqG3 v t => [groupWord .all .eq 3, encodeOffset v, typeParcel t]

/-- The parcels of a well-formed instruction; an offset or a bit position without an encoding is refused (R57). -/
def encode (i : Instr) : Option (List Parcel) :=
  if i.wf then some i.parcels else none

/-- The length of an instruction in bytes (R50, R59). -/
def Instr.length : Instr → Nat
  | .cbAnyEqz .. | .cbAnyNez .. | .cbAnyLtz .. | .cbAnyGez .. | .cbAnyGtz .. | .cbAnyLez .. | .cbAllEqz ..
  | .cbAllNez .. | .cbAllLtz .. | .cbAllGez .. | .cbAllGtz .. | .cbAllLez .. | .cbAnyEq .. | .cbAnyNe ..
  | .cbAnyLts .. | .cbAnyGes .. | .cbAnyLtu .. | .cbAnyGeu .. | .cbAllEq .. | .cbAllNe .. | .cbAllLts ..
  | .cbAllGes .. | .cbAllLtu .. | .cbAllGeu .. | .cbBit1 .. | .cbBit0 .. => 4
  | .cbTanyNeG0 .. | .cbTallNeG0 .. | .cbTmask .. | .cbTanyNeG1 .. | .cbTallNeG1 .. | .cbTanyNeG2 .. | .cbTallNeG2 ..
  | .cbTanyNeG3 .. | .cbTallNeG3 .. | .cbTanyEqG0 .. | .cbTallEqG0 .. | .cbTanyEqG1 .. | .cbTallEqG1 ..
  | .cbTanyEqG2 .. | .cbTallEqG2 .. | .cbTanyEqG3 .. | .cbTallEqG3 .. => 6

/-- The instruction as an encoder should write it (R64, log 25): 0xf in an ignored `TYPE_D`, 0 in the unnamed bit of
the mask word. -/
def Instr.canonical : Instr → MaskPlacement → Instr
  | .cbAnyEqz ra v, _ => .cbAnyEqz ra v
  | .cbAnyNez ra v, _ => .cbAnyNez ra v
  | .cbAnyLtz ra v, _ => .cbAnyLtz ra v
  | .cbAnyGez ra v, _ => .cbAnyGez ra v
  | .cbAnyGtz ra v, _ => .cbAnyGtz ra v
  | .cbAnyLez ra v, _ => .cbAnyLez ra v
  | .cbAllEqz ra v, _ => .cbAllEqz ra v
  | .cbAllNez ra v, _ => .cbAllNez ra v
  | .cbAllLtz ra v, _ => .cbAllLtz ra v
  | .cbAllGez ra v, _ => .cbAllGez ra v
  | .cbAllGtz ra v, _ => .cbAllGtz ra v
  | .cbAllLez ra v, _ => .cbAllLez ra v
  | .cbAnyEq rb ra v, _ => .cbAnyEq rb ra v
  | .cbAnyNe rb ra v, _ => .cbAnyNe rb ra v
  | .cbAnyLts rb ra v, _ => .cbAnyLts rb ra v
  | .cbAnyGes rb ra v, _ => .cbAnyGes rb ra v
  | .cbAnyLtu rb ra v, _ => .cbAnyLtu rb ra v
  | .cbAnyGeu rb ra v, _ => .cbAnyGeu rb ra v
  | .cbAllEq rb ra v, _ => .cbAllEq rb ra v
  | .cbAllNe rb ra v, _ => .cbAllNe rb ra v
  | .cbAllLts rb ra v, _ => .cbAllLts rb ra v
  | .cbAllGes rb ra v, _ => .cbAllGes rb ra v
  | .cbAllLtu rb ra v, _ => .cbAllLtu rb ra v
  | .cbAllGeu rb ra v, _ => .cbAllGeu rb ra v
  | .cbBit1 ra c v, _ => .cbBit1 ra c v
  | .cbBit0 rb c v, _ => .cbBit0 rb c v
  | .cbTanyNeG0 v t, _ => .cbTanyNeG0 v t
  | .cbTallNeG0 v t, _ => .cbTallNeG0 v t
  | .cbTmask rd v f, .lsb0 => .cbTmask rd v (f &&& 0x7fff#16)
  | .cbTmask rd v f, .lsb1 => .cbTmask rd v (f &&& 0xfffe#16)
  | .cbTanyNeG1 v t, _ => .cbTanyNeG1 v t
  | .cbTallNeG1 v t, _ => .cbTallNeG1 v t
  | .cbTanyNeG2 v t, _ => .cbTanyNeG2 v t
  | .cbTallNeG2 v t, _ => .cbTallNeG2 v t
  | .cbTanyNeG3 v t, _ => .cbTanyNeG3 v { t with d := 0xf#4 }
  | .cbTallNeG3 v t, _ => .cbTallNeG3 v { t with d := 0xf#4 }
  | .cbTanyEqG0 v t, _ => .cbTanyEqG0 v t
  | .cbTallEqG0 v t, _ => .cbTallEqG0 v t
  | .cbTanyEqG1 v t, _ => .cbTanyEqG1 v t
  | .cbTallEqG1 v t, _ => .cbTallEqG1 v t
  | .cbTanyEqG2 v t, _ => .cbTanyEqG2 v t
  | .cbTallEqG2 v t, _ => .cbTallEqG2 v t
  | .cbTanyEqG3 v t, _ => .cbTanyEqG3 v { t with d := 0xf#4 }
  | .cbTallEqG3 v t, _ => .cbTallEqG3 v { t with d := 0xf#4 }

end Sys2Proof
end

