-- ==== Sys2Proof/Machine/State.lean ====
section
/-! DEFINITION. The state of the machine (spec/10_state.md R28), the reasons a step can stop, the state after reset. -/

namespace Sys2Proof.Machine

/-- The value of a general register: `VLEN_BITS` bits (R12), the scalar part `x[i][31:0]` and the 32-bit words above
it, the least significant first. `State.widthsOk` says that there are as many as `VLEN_BITS` asks. Log 14. -/
structure RegValue where
  scalar : Word
  upper : List Word
deriving DecidableEq, Repr

/-- Memory: the listed bytes, addresses strictly rising (`Memory.wf`). An address that is not listed holds no byte
(R31: a partial function), so a fetch that needs it is stuck (R35). Log 21. -/
abbrev Memory := List Host.Cell

/-- Why a step stops with no next state and no refusal. -/
inductive Fault where
  /-- `exc_type`, the one exception (R200, R203): raised by the 24 compare branches when type handling answers
  `ExcType`; carries the address of the branch and its parcel 0. Safe: the source describes no handler, so nothing
  after the fault can be proved (log 10). -/
  | excType (pc : Word) (parcel0 : Parcel)
  /-- The fetch needs a byte that the launch memory does not hold (R35): raised by the step. Safe (log 21). -/
  | stuck (pc : Word)
  /-- No failure: `pc` is in `HALT_SET` and the run is final (R227); raised by the step, before the fetch. Safe: the
  model only stops looking (log 24). -/
  | halted (pc : Word)
deriving DecidableEq, Repr

/-- Why the spec gives a situation no meaning (R212). All are safe: the chip does something the source does not say. -/
inductive Refusal where
  /-- An instruction without a meaning yet: raised by `exec`. Safe. -/
  | notModelled (mnemonic : String)
  /-- `pc[0] = 1` (R18): raised by the fetch. Safe (log 5). -/
  | misalignedPc (pc : Word)
  /-- Parcel 0 is none of the 43 code words (R63): raised by the fetch. Safe (log 18). -/
  | unknownEncoding (pc : Word) (parcel0 : Parcel)
  /-- A compare branch needs the descriptor of a type code that `TYPE_TABLE` does not have (R102): raised by the 24
  compare branches. Safe (log 11). -/
  | unknownType (pc : Word) (code : TypeCode)
deriving DecidableEq, Repr

/-- The record of the outcome that ended a run (R27). -/
inductive EndRecord where
  | fault (pc : Word) (parcel0 : Parcel)
  | refused (r : Refusal)
  | stuck (pc : Word)
deriving DecidableEq, Repr

/-- The state (R28), and the configuration it carries (log 1). -/
structure State where
  /-- The configuration (R5): written by no step. -/
  cfg : Config
  /-- `x[0]` .. `x[14]` (R11, R12). -/
  x : Vector RegValue 15
  /-- `xt[0]` .. `xt[14]` (R11, R13). -/
  xt : Vector TypeCode 15
  /-- The program counter (R17). -/
  pc : Word
  /-- `VEND` (R21), of no format the spec gives: read through `ACTIVE_LANES` only. Log 16. -/
  vend : Nat
  /-- `VSTART` (R22): read and written by no instruction. Log 16. -/
  vstart : Nat
  /-- The launch memory (R25, R31). -/
  mem : Memory
  /-- The outcome record (R27). Log 31. -/
  record : Option EndRecord
deriving DecidableEq, Repr

/-- The type table of the example configuration of spec/95_test_vectors.md (P1, P3, P4): 0x1 is `T_I32`, 0x2 is
`T_V16`, the other codes have no descriptor. DESIGN CHOICE, unsafe: the example's own, not the chip's table. Log 12. -/
def exampleTypeTable : Vector (Option Descriptor) 15 :=
  #v[none, some .tI32, some .tV16, none, none, none, none, none, none, none, none, none, none, none, none]

/-- The configuration at reset: the defaults of R5 where it gives one. DESIGN CHOICE for `TYPE_TABLE` (log 12),
`HALT_SET` (log 24) and `ACTIVE_LANES` (log 15). -/
def resetConfig : Config :=
  { byteOrder := .little
    branchBase := .thisInsn
    upperWords := 0
    typeTable := exampleTypeTable
    typeRules := []
    laneCounts := []
    maskPlacement := .lsb0
    haltSet := [] }

/-- The machine after reset. The spec gives no reset value for any state (R220): the values are DESIGN CHOICE, unsafe
(log 12 for the types, log 20 for the rest), but for the record, which R28 gives. -/
def State.reset : State :=
  { cfg := resetConfig
    x := Vector.replicate 15 { scalar := 0, upper := [] }
    xt := Vector.replicate 15 1
    pc := 0
    vend := 0
    vstart := 0
    mem := []
    record := none }

end Sys2Proof.Machine
end

