-- ==== Sys2Proof/Machine/Ops.lean ====
section
/-! DEFINITION. The named operations: memory, registers, the fetch, the branch action, raising `exc_type`, the end of
a run. -/

namespace Sys2Proof.Machine

/-- What a step answers. -/
abbrev Result := Host.Outcome State Fault Refusal

/-! ### Memory (spec/20_memory.md) -/

/-- The byte listed at an address. -/
def Memory.lookup : Memory → Nat → Option Byte
  | [], _ => none
  | (k, b) :: m, a => if k = a then some b else Memory.lookup m a

/-- List a byte at an address, in its place. -/
def Memory.insert : Memory → Nat → Byte → Memory
  | [], a, b => [(a, b)]
  | (k, v) :: m, a, b =>
    if a < k then (a, b) :: (k, v) :: m
    else if a = k then (a, b) :: m
    else (k, v) :: Memory.insert m a b

/-- The byte at an address, if the launch memory holds one (R31). -/
def Memory.read (m : Memory) (a : Word) : Option Byte := Memory.lookup m a.toNat

/-- `MemWrite` of one byte (R6): used by no rule of the spec; it lays a program into the launch memory. -/
def Memory.write (m : Memory) (a : Word) (b : Byte) : Memory := Memory.insert m a.toNat b

/-- Addresses strictly rise, from above `prev` where there is one. -/
def Memory.risesFrom : Option Nat → Memory → Bool
  | _, [] => true
  | none, (k, _) :: m => Memory.risesFrom (some k) m
  | some p, (k, _) :: m => decide (p < k) && Memory.risesFrom (some k) m

/-- The canonical form of memory: addresses strictly rising, each below 2^32 (R30). An unlisted address holds no byte,
so no listed byte equals what it would read as. -/
def Memory.wf (m : Memory) : Bool :=
  Memory.risesFrom none m && m.all (fun c => decide (c.1 < 2 ^ 32))

/-- `MemRead(addr, 2)` (R34): the parcel at `addr`, `addr +32 1`, assembled by `BYTE_ORDER` (R33). -/
def State.readParcel (s : State) (a : Word) : Option Parcel :=
  match s.mem.read a, s.mem.read (a + 1#32) with
  | some lo, some hi => some (joinBytes s.cfg.byteOrder lo hi)
  | _, _ => none

/-- Lay a parcel into memory at `a`, `a +32 1`, by a byte order (R33). -/
def Memory.writeParcel (m : Memory) (o : ByteOrder) (a : Word) (p : Parcel) : Memory :=
  (m.write a (splitParcel o p).1).write (a + 1#32) (splitParcel o p).2

/-- Lay parcels into memory at increasing addresses (R32). -/
def Memory.writeParcels (o : ByteOrder) : Memory → Word → List Parcel → Memory
  | m, _, [] => m
  | m, a, p :: ps => Memory.writeParcels o (m.writeParcel o a p) (a + 2#32) ps

/-! ### Registers (spec/10_state.md) -/

/-- `x[i]` (R11). -/
def State.value (s : State) (r : RegIdx) : RegValue := s.x.get r

/-- `xt[i]` (R11). -/
def State.typeOf (s : State) (r : RegIdx) : TypeCode := s.xt.get r

/-- `x[i] <- v` (R6): no instruction of the chapter performs it (R16); a launch state is built with it. -/
def State.setValue (s : State) (r : RegIdx) (v : RegValue) : State := { s with x := s.x.set r.val v }

/-- `xt[i] <- t` (R6): no instruction of the chapter performs it (R16); a launch state is built with it. -/
def State.setType (s : State) (r : RegIdx) (t : TypeCode) : State := { s with xt := s.xt.set r.val t }

/-- Every register value has `VLEN_BITS` bits (R12). -/
def State.widthsOk (s : State) : Bool := s.x.toList.all (fun v => v.upper.length == s.cfg.upperWords)

/-! ### The branch action (spec/40_cbranch_common.md R101) -/

/-- The address a taken branch adds its offset to, by `BRANCH_BASE` (R101). Log 3. -/
def State.branchBase (s : State) (len : Word) : Word :=
  match s.cfg.branchBase with
  | .thisInsn => s.pc
  | .nextInsn => s.pc + len

/-- `pc <- target`, the one write that an instruction makes (R16). -/
def State.setPc (s : State) (a : Word) : State := { s with pc := a }

/-- `Taken(len)` (R101). -/
def State.taken (s : State) (len value : Word) : State := s.setPc (s.branchBase len + value)

/-- `NotTaken(len)` (R101). -/
def State.notTaken (s : State) (len : Word) : State := s.setPc (s.pc + len)

/-- `if cond: Taken(len) else: NotTaken(len)` (R100). -/
def branchIf (cond : Bool) (len value : Word) (s : State) : Result :=
  .next (if cond then s.taken len value else s.notTaken len)

/-! ### The exception (spec/60_exceptions.md R203) -/

/-- `raise exc_type(pc)` (R203): the fault outcome `Fault(exc_type, pc, Parcel(0))`. The state is the one before the
instruction. The source gives no handler to enter and no return (R207). Log 10, 35. -/
def raiseExcType (parcel0 : Parcel) (s : State) : Result := .fault (.excType s.pc parcel0)

/-! ### The fetch (R32, R34, R35, R100) -/

/-- The parcels that memory holds from `a` on, `n` at most, up to the first one that is missing. -/
def State.parcelsAt (s : State) : Nat → Word → List Parcel
  | 0, _ => []
  | n + 1, a =>
    match s.readParcel a with
    | none => []
    | some p => p :: s.parcelsAt n (a + 2#32)

/-- The fetch and the decoding of the instruction at `pc`, with the refusals and the stuck outcome in the order of
R100: odd `pc`, parcel 0 missing, unknown word, parcel 1 or 2 missing. Log 5, 18, 21, 30. -/
def fetch (s : State) : Host.Outcome Instr Fault Refusal :=
  if s.pc.getLsbD 0 then .refused (.misalignedPc s.pc)
  else
    match decode (s.parcelsAt 3 s.pc) with
    | .ok (i, _) => .next i
    | .error .missingParcel => .fault (.stuck s.pc)
    | .error (.unknown w0) => .refused (.unknownEncoding s.pc w0)
    | .error (.notInChapter w0) => .refused (.unknownEncoding s.pc w0)

/-! ### The end of a run (R27, R227) -/

/-- The outcome a record stands for. -/
def EndRecord.outcome : EndRecord → Result
  | .fault pc w0 => .fault (.excType pc w0)
  | .refused r => .refused r
  | .stuck pc => .fault (.stuck pc)

/-- The end that a run has reached before the step: a recorded outcome (R27; log 31), or a halt address (R227; log 24).
-/
def State.ended? (s : State) : Option Result :=
  match s.record with
  | some r => some r.outcome
  | none => if s.cfg.haltSet.contains s.pc then some (.fault (.halted s.pc)) else none

/-- The record that an outcome leaves (R27): a completed step and a halt leave none. -/
def recordOf : Result → Option EndRecord
  | .next _ => none
  | .fault (.excType pc w0) => some (.fault pc w0)
  | .fault (.stuck pc) => some (.stuck pc)
  | .fault (.halted _) => none
  | .refused r => some (.refused r)

/-- The state that a run holds after an outcome (R27, R203): the next state; else the state before, unchanged, with the
outcome recorded beside it. -/
def State.settle (s : State) (o : Result) : State :=
  match o with
  | .next t => t
  | .fault f => { s with record := recordOf (.fault f) }
  | .refused r => { s with record := recordOf (.refused r) }

end Sys2Proof.Machine
end

