-- ==== Sys2Proof/Machine/Operands.lean ====
section
/-! DEFINITION. The operands of the conditional branches: type handling, lanes, bits, type fields, the type mask. -/

namespace Sys2Proof.Machine

/-! ### Type handling (spec/40_cbranch_common.md R102) -/

/-- `TYPE_TABLE` (R5, R14). Log 11. -/
def typeTable (c : Config) (t : TypeCode) : Option Descriptor := c.typeTable.get t

/-- The default `CBRANCH_TYPE_RULE` (R102): one operand, its type; two of one type, that type; else `ExcType`. -/
def defaultTypeRule (c : Config) (left : Option TypeCode) (right : TypeCode) : TypeRuling :=
  match left with
  | none => .compare (typeTable c right)
  | some t => if t = right then .compare (typeTable c right) else .excType

/-- `CBRANCH_TYPE_RULE` (R5): the entry of the configuration for these types, else the default rule. Log 9. -/
def typeRule (c : Config) (left : Option TypeCode) (right : TypeCode) : TypeRuling :=
  match c.typeRules.find? (fun e => decide (e.left = left ∧ e.right = right)) with
  | some e => e.ruling
  | none => defaultTypeRule c left right

/-- `TypeCheck1(A)` (R102). -/
def typeCheck1 (s : State) (ra : RegIdx) : TypeRuling := typeRule s.cfg none (s.typeOf ra)

/-- `TypeCheck2(B, A)` (R102). -/
def typeCheck2 (s : State) (rb ra : RegIdx) : TypeRuling := typeRule s.cfg (some (s.typeOf rb)) (s.typeOf ra)

/-! ### Lanes (R103, R108) -/

/-- A number of lanes of width `w`, cut to the bound `VLEN_BITS / w` of R103. DESIGN CHOICE, log 38: at width 0, which
R5 and R103 do not exclude, the spec's bound has no value, and the model applies none. -/
def cutToBound (c : Config) (w n : Nat) : Nat := if w = 0 then n else min n (c.vlenBits / w)

/-- `ACTIVE_LANES(d, VEND)` (R5, R103): what the configuration sets, else the free value; at most `VLEN_BITS / d.w`
(log 15). DESIGN CHOICE, log 38: for a descriptor of lane width 0 the bound has no value and cuts nothing. -/
def activeLanes (c : Config) (d : Descriptor) (vend : Nat) : Nat :=
  cutToBound c d.width
    (match c.laneCounts.find? (fun e => decide (e.desc = d ∧ e.vend = vend)) with
      | some e => e.lanes
      | none => Config.freeLanes d vend)

/-- `NLanes(d)` (R103). -/
def nLanes (s : State) (d : Descriptor) : Nat :=
  match d.shape with
  | .scalar => 1
  | .vector => activeLanes s.cfg d s.vend

/-- The number that words spell, the least significant first. -/
def wordsToNat : List Word → Nat
  | [] => 0
  | w :: ws => w.toNat + 2 ^ 32 * wordsToNat ws

/-- The bits of a register value, as a number: bits 31:0 are the scalar part (R12). -/
def RegValue.bits (v : RegValue) : Nat := wordsToNat (v.scalar :: v.upper)

/-- The number of bits of a register value: `VLEN_BITS` where `State.widthsOk` holds (R12). -/
def RegValue.width (v : RegValue) : Nat := 32 * (v.upper.length + 1)

/-- `Lane(v, d, i)` for lane width `w` (R108): bits `w*i + w - 1 : w*i` (log 17). Where the value does not have these
bits, as under a scalar type wider than the register, the lane is a free value (log 36). -/
def lane (v : RegValue) (w i : Nat) : BitVec w :=
  if w * i + w ≤ v.width then BitVec.ofNat w (v.bits >>> (w * i))
  else Config.freeLane w i (v.scalar :: v.upper)

/-! ### Bits (spec/43_cbranch_bit.md R160) -/

/-- Bit `c` of the scalar part of a register, whatever its type (R160). Log 29. -/
def scalarBit (s : State) (r : RegIdx) (c : Fin 32) : Bool := (s.value r).scalar.getLsbD c.val

/-! ### Types (spec/44_cbranch_type.md R170, R171, R175) -/

/-- The registers of group g, in the order of their type fields (R170); group 3 has three (R171). -/
def groupRegs (g : Fin 4) : List RegIdx :=
  match g with
  | 0 => [0, 1, 2, 3]
  | 1 => [4, 5, 6, 7]
  | 2 => [8, 9, 10, 11]
  | 3 => [12, 13, 14]

/-- The type fields in order, `TYPE_A` first (R170). -/
def TypeWord.fields (t : TypeWord) : List Nibble := [t.a, t.b, t.c, t.d]

/-- The registers under test with their expected types (R170, R171): a type field of 0xf takes its register out, and
`TYPE_D` of group 3 has no register. Log 25. -/
def underTest (g : Fin 4) (t : TypeWord) : List (RegIdx × Nibble) :=
  ((groupRegs g).zip (TypeWord.fields t)).filter (fun p => p.2 != 0xf)

/-- The actual type of a register is its expected one: equality of two 4-bit codes (R170). Log 26. -/
def typeIs (s : State) (r : RegIdx) (expected : Nibble) : Bool := (s.typeOf r).val == expected.toNat

/-- The bit of the type mask for a type code, by `TYPE_MASK_LSB` (R54, R175). Log 7. -/
def maskBit (p : MaskPlacement) (f : Parcel) (t : TypeCode) : Bool :=
  match p with
  | .lsb0 => f.getLsbD t.val
  | .lsb1 => f.getLsbD (t.val + 1)

end Sys2Proof.Machine
end

