-- ==== Sys2Proof/Machine/Flags.lean ====
section
/-! DEFINITION. The conditions of the branches: relations and aggregation. The machine has no flags (spec/10_state.md
R20): every branch computes its condition when it executes. -/

namespace Sys2Proof.Machine

/-- `Any` and `All` (spec/40_cbranch_common.md R105, spec/44_cbranch_type.md R172): over nothing, any is false and all
is true. Log 8. -/
def aggregate {α : Type} (agg : Aggregation) (xs : List α) (p : α → Bool) : Bool :=
  match agg with
  | .any => xs.any p
  | .all => xs.all p

/-- The relations with zero on a fixed point lane (R107, R110): the ordered ones are signed. -/
def zeroHolds {w : Nat} (rel : ZeroRel) (a : BitVec w) : Bool :=
  match rel with
  | .eqz => a == 0#w
  | .nez => a != 0#w
  | .ltz => decide (a.toInt < 0)
  | .gez => decide (0 ≤ a.toInt)
  | .gtz => decide (0 < a.toInt)
  | .lez => decide (a.toInt ≤ 0)

/-- The relations of two fixed point lanes (R107, R110): `b` of `$rB` is the left operand, `a` of `$rA` the right. -/
def regHolds {w : Nat} (rel : RegRel) (b a : BitVec w) : Bool :=
  match rel with
  | .eq => b == a
  | .ne => b != a
  | .lts => decide (b.toInt < a.toInt)
  | .ges => decide (a.toInt ≤ b.toInt)
  | .ltu => decide (b.toNat < a.toNat)
  | .geu => decide (a.toNat ≤ b.toNat)

/-- `P(i)` of a compare-with-zero branch (R109, R110). Log 13 for the floating-point kind. -/
def zeroLane (agg : Aggregation) (rel : ZeroRel) (d : Descriptor) (v : RegValue) (i : Nat) : Bool :=
  match d.kind with
  | .fixed => zeroHolds rel (lane v d.width i)
  | .float => Config.floatCmp (.zero agg rel) d.width none (lane v d.width i)

/-- `P(i)` of a register-register branch (R109, R110). Log 13 for the floating-point kind. -/
def regLane (agg : Aggregation) (rel : RegRel) (d : Descriptor) (vb va : RegValue) (i : Nat) : Bool :=
  match d.kind with
  | .fixed => regHolds rel (lane vb d.width i) (lane va d.width i)
  | .float => Config.floatCmp (.reg agg rel) d.width (some (lane vb d.width i)) (lane va d.width i)

/-- `P(k)` of a group branch for one register and its expected type (R170). -/
def typeHolds (rel : TypeRel) (s : State) (p : RegIdx × Nibble) : Bool :=
  match rel with
  | .ne => !typeIs s p.1 p.2
  | .eq => typeIs s p.1 p.2

end Sys2Proof.Machine
end

