-- ==== Sys2Proof/Machine/BitTest.lean ====
section
/-! DEFINITION. The two branches that test one bit of a register (spec/43_cbranch_bit.md). They read no type and raise
nothing (R160). -/

namespace Sys2Proof.Machine

/-- `CB_BIT1`: branches when bit C of `$rA` is set (R161). -/
def execCbBit1 (ra : RegIdx) (c : Fin 32) (value : Word) (s : State) : Result :=
  branchIf (scalarBit s ra c) 4 value s

/-- `CB_BIT0`: branches when bit C of `$rB` is not set (R162). -/
def execCbBit0 (rb : RegIdx) (c : Fin 32) (value : Word) (s : State) : Result :=
  branchIf (!scalarBit s rb c) 4 value s

end Sys2Proof.Machine
end

