-- ==== Sys2Proof/Machine/CompareReg.lean ====
section
/-! DEFINITION. The twelve branches that compare two registers (spec/42_cbranch_reg.md). -/

namespace Sys2Proof.Machine

/-- The common shape (R140): as for compare with zero, `$rB` the left operand and `$rA` the right. The refusal names the
type code of `$rA` (log 33). -/
def compareReg (agg : Aggregation) (rel : RegRel) (rb ra : RegIdx) (value : Word) (s : State) : Result :=
  match typeCheck2 s rb ra with
  | .excType => raiseExcType (regWord agg rel rb ra) s
  | .compare none => .refused (.unknownType s.pc (s.typeOf ra))
  | .compare (some d) =>
    branchIf (aggregate agg (List.range (nLanes s d)) (regLane agg rel d (s.value rb) (s.value ra))) 4 value s

/-- `CB_ANY_EQ`: branches when in at least one compared lane $rB == $rA (R141). -/
def execCbAnyEq (rb ra : RegIdx) (value : Word) (s : State) : Result :=
  compareReg .any .eq rb ra value s

/-- `CB_ANY_NE`: branches when in at least one compared lane $rB != $rA (R142). -/
def execCbAnyNe (rb ra : RegIdx) (value : Word) (s : State) : Result :=
  compareReg .any .ne rb ra value s

/-- `CB_ANY_LTS`: branches when in at least one compared lane signed $rB < $rA (R143). -/
def execCbAnyLts (rb ra : RegIdx) (value : Word) (s : State) : Result :=
  compareReg .any .lts rb ra value s

/-- `CB_ANY_GES`: branches when in at least one compared lane signed $rB >= $rA (R144). -/
def execCbAnyGes (rb ra : RegIdx) (value : Word) (s : State) : Result :=
  compareReg .any .ges rb ra value s

/-- `CB_ANY_LTU`: branches when in at least one compared lane unsigned $rB < $rA (R145). -/
def execCbAnyLtu (rb ra : RegIdx) (value : Word) (s : State) : Result :=
  compareReg .any .ltu rb ra value s

/-- `CB_ANY_GEU`: branches when in at least one compared lane unsigned $rB >= $rA (R146). -/
def execCbAnyGeu (rb ra : RegIdx) (value : Word) (s : State) : Result :=
  compareReg .any .geu rb ra value s

/-- `CB_ALL_EQ`: branches when in every compared lane $rB == $rA (R147). -/
def execCbAllEq (rb ra : RegIdx) (value : Word) (s : State) : Result :=
  compareReg .all .eq rb ra value s

/-- `CB_ALL_NE`: branches when in every compared lane $rB != $rA (R148). -/
def execCbAllNe (rb ra : RegIdx) (value : Word) (s : State) : Result :=
  compareReg .all .ne rb ra value s

/-- `CB_ALL_LTS`: branches when in every compared lane signed $rB < $rA (R149). -/
def execCbAllLts (rb ra : RegIdx) (value : Word) (s : State) : Result :=
  compareReg .all .lts rb ra value s

/-- `CB_ALL_GES`: branches when in every compared lane signed $rB >= $rA (R150). -/
def execCbAllGes (rb ra : RegIdx) (value : Word) (s : State) : Result :=
  compareReg .all .ges rb ra value s

/-- `CB_ALL_LTU`: branches when in every compared lane unsigned $rB < $rA (R151). -/
def execCbAllLtu (rb ra : RegIdx) (value : Word) (s : State) : Result :=
  compareReg .all .ltu rb ra value s

/-- `CB_ALL_GEU`: branches when in every compared lane unsigned $rB >= $rA (R152). -/
def execCbAllGeu (rb ra : RegIdx) (value : Word) (s : State) : Result :=
  compareReg .all .geu rb ra value s

end Sys2Proof.Machine
end

