-- ==== Sys2Proof/Machine/CompareZero.lean ====
section
/-! DEFINITION. The twelve branches that compare a register with zero (spec/41_cbranch_zero.md). -/

namespace Sys2Proof.Machine

/-- The common shape (R120): type handling first; then the lanes are compared and aggregated, and `pc` is written. The
refusal and the fault leave everything unchanged (R111). -/
def compareZero (agg : Aggregation) (rel : ZeroRel) (ra : RegIdx) (value : Word) (s : State) : Result :=
  match typeCheck1 s ra with
  | .excType => raiseExcType (zeroWord agg rel ra) s
  | .compare none => .refused (.unknownType s.pc (s.typeOf ra))
  | .compare (some d) =>
    branchIf (aggregate agg (List.range (nLanes s d)) (zeroLane agg rel d (s.value ra))) 4 value s

/-- `CB_ANY_EQZ`: branches when at least one compared lane of `$rA` is == 0 (R121). -/
def execCbAnyEqz (ra : RegIdx) (value : Word) (s : State) : Result :=
  compareZero .any .eqz ra value s

/-- `CB_ANY_NEZ`: branches when at least one compared lane of `$rA` is != 0 (R122). -/
def execCbAnyNez (ra : RegIdx) (value : Word) (s : State) : Result :=
  compareZero .any .nez ra value s

/-- `CB_ANY_LTZ`: branches when at least one compared lane of `$rA` is < 0 (R123). -/
def execCbAnyLtz (ra : RegIdx) (value : Word) (s : State) : Result :=
  compareZero .any .ltz ra value s

/-- `CB_ANY_GEZ`: branches when at least one compared lane of `$rA` is >= 0 (R124). -/
def execCbAnyGez (ra : RegIdx) (value : Word) (s : State) : Result :=
  compareZero .any .gez ra value s

/-- `CB_ANY_GTZ`: branches when at least one compared lane of `$rA` is > 0 (R125). -/
def execCbAnyGtz (ra : RegIdx) (value : Word) (s : State) : Result :=
  compareZero .any .gtz ra value s

/-- `CB_ANY_LEZ`: branches when at least one compared lane of `$rA` is <= 0 (R126). -/
def execCbAnyLez (ra : RegIdx) (value : Word) (s : State) : Result :=
  compareZero .any .lez ra value s

/-- `CB_ALL_EQZ`: branches when every compared lane of `$rA` is == 0 (R127). -/
def execCbAllEqz (ra : RegIdx) (value : Word) (s : State) : Result :=
  compareZero .all .eqz ra value s

/-- `CB_ALL_NEZ`: branches when every compared lane of `$rA` is != 0 (R128). -/
def execCbAllNez (ra : RegIdx) (value : Word) (s : State) : Result :=
  compareZero .all .nez ra value s

/-- `CB_ALL_LTZ`: branches when every compared lane of `$rA` is < 0 (R129). -/
def execCbAllLtz (ra : RegIdx) (value : Word) (s : State) : Result :=
  compareZero .all .ltz ra value s

/-- `CB_ALL_GEZ`: branches when every compared lane of `$rA` is >= 0 (R130). -/
def execCbAllGez (ra : RegIdx) (value : Word) (s : State) : Result :=
  compareZero .all .gez ra value s

/-- `CB_ALL_GTZ`: branches when every compared lane of `$rA` is > 0 (R131). -/
def execCbAllGtz (ra : RegIdx) (value : Word) (s : State) : Result :=
  compareZero .all .gtz ra value s

/-- `CB_ALL_LEZ`: branches when every compared lane of `$rA` is <= 0 (R132). -/
def execCbAllLez (ra : RegIdx) (value : Word) (s : State) : Result :=
  compareZero .all .lez ra value s

end Sys2Proof.Machine
end

