-- ==== Sys2Proof/Machine/TypeTest.lean ====
section
/-! DEFINITION. The seventeen branches that test register types (spec/44_cbranch_type.md). They read no register value
and raise nothing (R170). -/

namespace Sys2Proof.Machine

/-- The common shape of the group branches (R170). -/
def groupTest (agg : Aggregation) (rel : TypeRel) (g : Fin 4) (value : Word) (types : TypeWord) (s : State) : Result :=
  branchIf (aggregate agg (underTest g types) (typeHolds rel s)) 6 value s

/-- `CB_TANY_NE_G0`: branches when some register under test among `$r0` .. `$r3` has another type than its expected type (R173). -/
def execCbTanyNeG0 (value : Word) (types : TypeWord) (s : State) : Result :=
  groupTest .any .ne 0 value types s

/-- `CB_TALL_NE_G0`: branches when every register under test among `$r0` .. `$r3` has another type than its expected type (R174). -/
def execCbTallNeG0 (value : Word) (types : TypeWord) (s : State) : Result :=
  groupTest .all .ne 0 value types s

/-- `CB_TMASK`: branches when the bit of the type mask for the type of `$rD` is 0 (R175). -/
def execCbTmask (rd : RegIdx) (value : Word) (fieldF : Parcel) (s : State) : Result :=
  branchIf (!maskBit s.cfg.maskPlacement fieldF (s.typeOf rd)) 6 value s

/-- `CB_TANY_NE_G1`: branches when some register under test among `$r4` .. `$r7` has another type than its expected type (R176). -/
def execCbTanyNeG1 (value : Word) (types : TypeWord) (s : State) : Result :=
  groupTest .any .ne 1 value types s

/-- `CB_TALL_NE_G1`: branches when every register under test among `$r4` .. `$r7` has another type than its expected type (R177). -/
def execCbTallNeG1 (value : Word) (types : TypeWord) (s : State) : Result :=
  groupTest .all .ne 1 value types s

/-- `CB_TANY_NE_G2`: branches when some register under test among `$r8` .. `$r11` has another type than its expected type (R178). -/
def execCbTanyNeG2 (value : Word) (types : TypeWord) (s : State) : Result :=
  groupTest .any .ne 2 value types s

/-- `CB_TALL_NE_G2`: branches when every register under test among `$r8` .. `$r11` has another type than its expected type (R179). -/
def execCbTallNeG2 (value : Word) (types : TypeWord) (s : State) : Result :=
  groupTest .all .ne 2 value types s

/-- `CB_TANY_NE_G3`: branches when some register under test among `$r12` .. `$r14` has another type than its expected type (R180). -/
def execCbTanyNeG3 (value : Word) (types : TypeWord) (s : State) : Result :=
  groupTest .any .ne 3 value types s

/-- `CB_TALL_NE_G3`: branches when every register under test among `$r12` .. `$r14` has another type than its expected type (R181). -/
def execCbTallNeG3 (value : Word) (types : TypeWord) (s : State) : Result :=
  groupTest .all .ne 3 value types s

/-- `CB_TANY_EQ_G0`: branches when some register under test among `$r0` .. `$r3` has exactly its expected type (R182). -/
def execCbTanyEqG0 (value : Word) (types : TypeWord) (s : State) : Result :=
  groupTest .any .eq 0 value types s

/-- `CB_TALL_EQ_G0`: branches when every register under test among `$r0` .. `$r3` has exactly its expected type (R183). -/
def execCbTallEqG0 (value : Word) (types : TypeWord) (s : State) : Result :=
  groupTest .all .eq 0 value types s

/-- `CB_TANY_EQ_G1`: branches when some register under test among `$r4` .. `$r7` has exactly its expected type (R184). -/
def execCbTanyEqG1 (value : Word) (types : TypeWord) (s : State) : Result :=
  groupTest .any .eq 1 value types s

/-- `CB_TALL_EQ_G1`: branches when every register under test among `$r4` .. `$r7` has exactly its expected type (R185). -/
def execCbTallEqG1 (value : Word) (types : TypeWord) (s : State) : Result :=
  groupTest .all .eq 1 value types s

/-- `CB_TANY_EQ_G2`: branches when some register under test among `$r8` .. `$r11` has exactly its expected type (R186). -/
def execCbTanyEqG2 (value : Word) (types : TypeWord) (s : State) : Result :=
  groupTest .any .eq 2 value types s

/-- `CB_TALL_EQ_G2`: branches when every register under test among `$r8` .. `$r11` has exactly its expected type (R187). -/
def execCbTallEqG2 (value : Word) (types : TypeWord) (s : State) : Result :=
  groupTest .all .eq 2 value types s

/-- `CB_TANY_EQ_G3`: branches when some register under test among `$r12` .. `$r14` has exactly its expected type (R188). -/
def execCbTanyEqG3 (value : Word) (types : TypeWord) (s : State) : Result :=
  groupTest .any .eq 3 value types s

/-- `CB_TALL_EQ_G3`: branches when every register under test among `$r12` .. `$r14` has exactly its expected type (R189). -/
def execCbTallEqG3 (value : Word) (types : TypeWord) (s : State) : Result :=
  groupTest .all .eq 3 value types s

end Sys2Proof.Machine
end

