-- ==== Sys2Proof/Machine/Dispatch.lean ====
section
/-! DEFINITION. One arm per instruction of the opcode table (spec/30_encoding.md R61). -/

namespace Sys2Proof.Machine

def exec (i : Instr) (s : State) : Host.Outcome State Fault Refusal :=
  match i with
  | .cbAnyEqz ra value => Sys2Proof.Machine.execCbAnyEqz ra value s
  | .cbAnyNez ra value => Sys2Proof.Machine.execCbAnyNez ra value s
  | .cbAnyLtz ra value => Sys2Proof.Machine.execCbAnyLtz ra value s
  | .cbAnyGez ra value => Sys2Proof.Machine.execCbAnyGez ra value s
  | .cbAnyGtz ra value => Sys2Proof.Machine.execCbAnyGtz ra value s
  | .cbAnyLez ra value => Sys2Proof.Machine.execCbAnyLez ra value s
  | .cbAllEqz ra value => Sys2Proof.Machine.execCbAllEqz ra value s
  | .cbAllNez ra value => Sys2Proof.Machine.execCbAllNez ra value s
  | .cbAllLtz ra value => Sys2Proof.Machine.execCbAllLtz ra value s
  | .cbAllGez ra value => Sys2Proof.Machine.execCbAllGez ra value s
  | .cbAllGtz ra value => Sys2Proof.Machine.execCbAllGtz ra value s
  | .cbAllLez ra value => Sys2Proof.Machine.execCbAllLez ra value s
  | .cbAnyEq rb ra value => Sys2Proof.Machine.execCbAnyEq rb ra value s
  | .cbAnyNe rb ra value => Sys2Proof.Machine.execCbAnyNe rb ra value s
  | .cbAnyLts rb ra value => Sys2Proof.Machine.execCbAnyLts rb ra value s
  | .cbAnyGes rb ra value => Sys2Proof.Machine.execCbAnyGes rb ra value s
  | .cbAnyLtu rb ra value => Sys2Proof.Machine.execCbAnyLtu rb ra value s
  | .cbAnyGeu rb ra value => Sys2Proof.Machine.execCbAnyGeu rb ra value s
  | .cbAllEq rb ra value => Sys2Proof.Machine.execCbAllEq rb ra value s
  | .cbAllNe rb ra value => Sys2Proof.Machine.execCbAllNe rb ra value s
  | .cbAllLts rb ra value => Sys2Proof.Machine.execCbAllLts rb ra value s
  | .cbAllGes rb ra value => Sys2Proof.Machine.execCbAllGes rb ra value s
  | .cbAllLtu rb ra value => Sys2Proof.Machine.execCbAllLtu rb ra value s
  | .cbAllGeu rb ra value => Sys2Proof.Machine.execCbAllGeu rb ra value s
  | .cbBit1 ra c value => Sys2Proof.Machine.execCbBit1 ra c value s
  | .cbBit0 rb c value => Sys2Proof.Machine.execCbBit0 rb c value s
  | .cbTanyNeG0 value types => Sys2Proof.Machine.execCbTanyNeG0 value types s
  | .cbTallNeG0 value types => Sys2Proof.Machine.execCbTallNeG0 value types s
  | .cbTmask rd value fieldF => Sys2Proof.Machine.execCbTmask rd value fieldF s
  | .cbTanyNeG1 value types => Sys2Proof.Machine.execCbTanyNeG1 value types s
  | .cbTallNeG1 value types => Sys2Proof.Machine.execCbTallNeG1 value types s
  | .cbTanyNeG2 value types => Sys2Proof.Machine.execCbTanyNeG2 value types s
  | .cbTallNeG2 value types => Sys2Proof.Machine.execCbTallNeG2 value types s
  | .cbTanyNeG3 value types => Sys2Proof.Machine.execCbTanyNeG3 value types s
  | .cbTallNeG3 value types => Sys2Proof.Machine.execCbTallNeG3 value types s
  | .cbTanyEqG0 value types => Sys2Proof.Machine.execCbTanyEqG0 value types s
  | .cbTallEqG0 value types => Sys2Proof.Machine.execCbTallEqG0 value types s
  | .cbTanyEqG1 value types => Sys2Proof.Machine.execCbTanyEqG1 value types s
  | .cbTallEqG1 value types => Sys2Proof.Machine.execCbTallEqG1 value types s
  | .cbTanyEqG2 value types => Sys2Proof.Machine.execCbTanyEqG2 value types s
  | .cbTallEqG2 value types => Sys2Proof.Machine.execCbTallEqG2 value types s
  | .cbTanyEqG3 value types => Sys2Proof.Machine.execCbTanyEqG3 value types s
  | .cbTallEqG3 value types => Sys2Proof.Machine.execCbTallEqG3 value types s

end Sys2Proof.Machine
end

