-- ==== Sys2Proof/Machine/Step.lean ====
section
/-! DEFINITION. One step (spec/40_cbranch_common.md R100), and the placing of an instruction where the next step
fetches. -/

namespace Sys2Proof.Machine

/-- One step (R100): a run that has ended stays so; else the instruction at `pc` is fetched and executed. -/
def step (s : State) : Host.Outcome State Fault Refusal :=
  match s.ended? with
  | some o => o
  | none =>
    match fetch s with
    | .next i => exec i s
    | .fault f => .fault f
    | .refused r => .refused r

/-- The state a run holds after one step, with the outcome that ends it recorded beside it (R27). -/
def advance (s : State) : State := s.settle (step s)

/-- `s` with an instruction where the next step fetches (log 32): its parcels at `pc`, rounded down to an even address,
by the byte order of the configuration; no recorded outcome, and `pc` no halt address. -/
def State.withFetchWord (s : State) (nbits w : Nat) : State :=
  let pc := s.pc &&& 0xfffffffe#32
  { s with
    cfg := { s.cfg with haltSet := s.cfg.haltSet.filter (fun a => a != pc) }
    pc := pc
    mem := Memory.writeParcels s.cfg.byteOrder s.mem pc (tableParcels nbits w)
    record := none }

end Sys2Proof.Machine
end

