-- ==== Sys2Proof/Safety.lean ====
section
/-! DEFINITION. What claims about the machine are stated in: launch premises (spec/70_reset_and_hazards.md R221), ends
of a run (R227), and what an instruction reads (spec/10_state.md R16). -/

namespace Sys2Proof.Machine

/-! ### Launch premises -/

/-- The launch premises (R221): `pc` is even, no outcome is recorded, and every vector type of `TYPE_TABLE` has at most
`VLEN_BITS / d.w` active lanes (which `activeLanes` always meets, log 15). A type of lane width 0 has no such bound, and
nothing is asked of it: DESIGN CHOICE, log 38. That no register has the type code 0xf is in the type of `State.xt`.
`memory` and `widths` are no further premises: they say that the lists of the state stand for a partial map from
addresses to bytes (R31) and for values of `VLEN_BITS` bits (R12). -/
structure LaunchOk (s : State) : Prop where
  evenPc : s.pc.getLsbD 0 = false
  noRecord : s.record = none
  lanes : ∀ t d, typeTable s.cfg t = some d → d.shape = .vector → 0 < d.width →
    activeLanes s.cfg d s.vend ≤ s.cfg.vlenBits / d.width
  memory : s.mem.wf = true
  widths : s.widthsOk = true

/-- A step can run from the state: no outcome is recorded and `pc` is no halt address (R100). -/
def Alive (s : State) : Prop := s.record = none ∧ s.pc ∉ s.cfg.haltSet

/-- Memory holds the parcels at increasing addresses from `a` on (R32). -/
def HoldsParcels (s : State) (a : Word) (ps : List Parcel) : Prop :=
  ∀ k, ∀ h : k < ps.length, s.readParcel (a + BitVec.ofNat 32 (2 * k)) = some ps[k]

/-! ### The end of a run -/

/-- How a run ends (R227). -/
inductive RunEnd where
  | halted
  | faulted
  | refused
  | stuck
deriving DecidableEq, Repr

/-- The end that an outcome is (R227); none for a next state. -/
def runEnd : Result → Option RunEnd
  | .next _ => none
  | .fault (.excType _ _) => some .faulted
  | .fault (.stuck _) => some .stuck
  | .fault (.halted _) => some .halted
  | .refused _ => some .refused

/-- Whether an end is final: the result of the run (R227). -/
def RunEnd.final : RunEnd → Bool
  | .halted => true
  | .faulted => true
  | .refused => false
  | .stuck => false

/-! ### What a branch does -/

/-- The branch of length `len` completes, taken exactly when `cond` holds, and writes `pc` only (R16, R101). -/
def BranchesExactlyWhen (i : Instr) (len value : Word) (s : State) (cond : Prop) : Prop :=
  ∃ taken : Bool, (taken = true ↔ cond) ∧
    exec i s = .next { s with
      pc := if taken then (match s.cfg.branchBase with | .thisInsn => s.pc | .nextInsn => s.pc + len) + value
            else s.pc + len }

/-- A compare branch with code word `w0` does not complete when type handling answers `ExcType` or a type without a
descriptor; `code` is the type code the refusal names (R102, R203). -/
def StopsOnType (i : Instr) (w0 : Parcel) (ruling : TypeRuling) (code : TypeCode) (s : State) : Prop :=
  (ruling = .excType → exec i s = .fault (.excType s.pc w0)) ∧
  (ruling = .compare none → exec i s = .refused (.unknownType s.pc code))

/-- The rule of a compare-with-zero branch (R121 to R132): its encoding, with `FIELD_B` = `sel`; type handling; the
condition, `agg` over the compared lanes of `P` (fixed point) or of `FLOAT_CMP` (floating point). -/
def ZeroBranchRule (mk : RegIdx → Word → Instr) (agg : Aggregation) (rel : ZeroRel) (sel : Nat)
    (P : (w : Nat) → BitVec w → Prop) : Prop :=
  ∀ (ra : RegIdx) (value : Word),
    (encodableOffset value = true →
      encode (mk ra value) = some [BitVec.ofNat 16 (0xf000 + 0x10 * sel + ra.val), encodeOffset value]) ∧
    ∀ s : State,
      StopsOnType (mk ra value) (BitVec.ofNat 16 (0xf000 + 0x10 * sel + ra.val)) (typeRule s.cfg none (s.typeOf ra))
        (s.typeOf ra) s ∧
      ∀ d : Descriptor, typeRule s.cfg none (s.typeOf ra) = .compare (some d) →
        BranchesExactlyWhen (mk ra value) 4 value s
          (match agg, d.kind with
          | .any, .fixed => ∃ i < nLanes s d, P d.width (lane (s.value ra) d.width i)
          | .all, .fixed => ∀ i < nLanes s d, P d.width (lane (s.value ra) d.width i)
          | .any, .float => ∃ i < nLanes s d,
              Config.floatCmp (.zero agg rel) d.width none (lane (s.value ra) d.width i) = true
          | .all, .float => ∀ i < nLanes s d,
              Config.floatCmp (.zero agg rel) d.width none (lane (s.value ra) d.width i) = true)

/-- The rule of a register-register branch (R141 to R152), with `FIELD_C` = `sel`: as `ZeroBranchRule`, `P` taking the
lane of `$rB`, the left operand, first. -/
def RegBranchRule (mk : RegIdx → RegIdx → Word → Instr) (agg : Aggregation) (rel : RegRel) (sel : Nat)
    (P : (w : Nat) → BitVec w → BitVec w → Prop) : Prop :=
  ∀ (rb ra : RegIdx) (value : Word),
    (encodableOffset value = true →
      encode (mk rb ra value) =
        some [BitVec.ofNat 16 (0xf000 + 0x100 * sel + 0x10 * rb.val + ra.val), encodeOffset value]) ∧
    ∀ s : State,
      StopsOnType (mk rb ra value) (BitVec.ofNat 16 (0xf000 + 0x100 * sel + 0x10 * rb.val + ra.val))
        (typeRule s.cfg (some (s.typeOf rb)) (s.typeOf ra)) (s.typeOf ra) s ∧
      ∀ d : Descriptor, typeRule s.cfg (some (s.typeOf rb)) (s.typeOf ra) = .compare (some d) →
        BranchesExactlyWhen (mk rb ra value) 4 value s
          (match agg, d.kind with
          | .any, .fixed => ∃ i < nLanes s d, P d.width (lane (s.value rb) d.width i) (lane (s.value ra) d.width i)
          | .all, .fixed => ∀ i < nLanes s d, P d.width (lane (s.value rb) d.width i) (lane (s.value ra) d.width i)
          | .any, .float => ∃ i < nLanes s d,
              Config.floatCmp (.reg agg rel) d.width (some (lane (s.value rb) d.width i))
                (lane (s.value ra) d.width i) = true
          | .all, .float => ∀ i < nLanes s d,
              Config.floatCmp (.reg agg rel) d.width (some (lane (s.value rb) d.width i))
                (lane (s.value ra) d.width i) = true)

/-- The rule of a group branch with code word `w0` (R173, R174, R176 to R189): its encoding; the condition, `agg` over
the pairs of a register and its type field whose field is not 0xf, of the comparison `rel` of the two codes. -/
def GroupBranchRule (mk : Word → TypeWord → Instr) (w0 : Parcel) (agg : Aggregation) (rel : TypeRel)
    (pairs : TypeWord → List (RegIdx × Nibble)) : Prop :=
  ∀ (value : Word) (t : TypeWord),
    (encodableOffset value = true →
      encode (mk value t) = some [w0, encodeOffset value,
        BitVec.ofNat 16 (0x1000 * t.d.toNat + 0x100 * t.c.toNat + 0x10 * t.b.toNat + t.a.toNat)]) ∧
    ∀ s : State,
      BranchesExactlyWhen (mk value t) 6 value s
        (match agg, rel with
        | .any, .ne => ∃ p ∈ pairs t, p.2.toNat ≠ 0xf ∧ (s.typeOf p.1).val ≠ p.2.toNat
        | .any, .eq => ∃ p ∈ pairs t, p.2.toNat ≠ 0xf ∧ (s.typeOf p.1).val = p.2.toNat
        | .all, .ne => ∀ p ∈ pairs t, p.2.toNat ≠ 0xf → (s.typeOf p.1).val ≠ p.2.toNat
        | .all, .eq => ∀ p ∈ pairs t, p.2.toNat ≠ 0xf → (s.typeOf p.1).val = p.2.toNat)

/-- Two branches of one length are opposite: one is taken exactly when the other is not. -/
def Opposite (i j : Instr) (len value : Word) (s : State) : Prop :=
  ∃ taken : Bool,
    exec i s = .next (if taken then s.taken len value else s.notTaken len) ∧
    exec j s = .next (if taken then s.notTaken len else s.taken len value)

/-! ### Families -/

/-- The twelve compare-with-zero branches (R120). -/
def zeroForms : List (RegIdx → Word → Instr) :=
  [.cbAnyEqz, .cbAnyNez, .cbAnyLtz, .cbAnyGez, .cbAnyGtz, .cbAnyLez, .cbAllEqz, .cbAllNez, .cbAllLtz, .cbAllGez,
   .cbAllGtz, .cbAllLez]

/-- The twelve register-register branches (R140). -/
def regForms : List (RegIdx → RegIdx → Word → Instr) :=
  [.cbAnyEq, .cbAnyNe, .cbAnyLts, .cbAnyGes, .cbAnyLtu, .cbAnyGeu, .cbAllEq, .cbAllNe, .cbAllLts, .cbAllGes,
   .cbAllLtu, .cbAllGeu]

/-- The eight group branches that aggregate by any, each with its group (R170). -/
def anyGroupForms : List ((Word → TypeWord → Instr) × Fin 4) :=
  [(.cbTanyNeG0, 0), (.cbTanyNeG1, 1), (.cbTanyNeG2, 2), (.cbTanyNeG3, 3), (.cbTanyEqG0, 0), (.cbTanyEqG1, 1),
   (.cbTanyEqG2, 2), (.cbTanyEqG3, 3)]

/-- The eight group branches that aggregate by all, each with its group (R170). -/
def allGroupForms : List ((Word → TypeWord → Instr) × Fin 4) :=
  [(.cbTallNeG0, 0), (.cbTallNeG1, 1), (.cbTallNeG2, 2), (.cbTallNeG3, 3), (.cbTallEqG0, 0), (.cbTallEqG1, 1),
   (.cbTallEqG2, 2), (.cbTallEqG3, 3)]

/-- The operand types that type handling sees (R102): of the 24 compare branches only. -/
def handledTypes (i : Instr) (s : State) : Option (Option TypeCode × TypeCode) :=
  match i with
  | .cbAnyEqz ra _ | .cbAnyNez ra _ | .cbAnyLtz ra _ | .cbAnyGez ra _ | .cbAnyGtz ra _ | .cbAnyLez ra _
  | .cbAllEqz ra _ | .cbAllNez ra _ | .cbAllLtz ra _ | .cbAllGez ra _ | .cbAllGtz ra _ | .cbAllLez ra _ =>
    some (none, s.typeOf ra)
  | .cbAnyEq rb ra _ | .cbAnyNe rb ra _ | .cbAnyLts rb ra _ | .cbAnyGes rb ra _ | .cbAnyLtu rb ra _
  | .cbAnyGeu rb ra _ | .cbAllEq rb ra _ | .cbAllNe rb ra _ | .cbAllLts rb ra _ | .cbAllGes rb ra _
  | .cbAllLtu rb ra _ | .cbAllGeu rb ra _ =>
    some (some (s.typeOf rb), s.typeOf ra)
  | .cbBit1 .. | .cbBit0 .. => none
  | .cbTanyNeG0 .. | .cbTallNeG0 .. | .cbTmask .. | .cbTanyNeG1 .. | .cbTallNeG1 .. | .cbTanyNeG2 .. | .cbTallNeG2 ..
  | .cbTanyNeG3 .. | .cbTallNeG3 .. | .cbTanyEqG0 .. | .cbTallEqG0 .. | .cbTanyEqG1 .. | .cbTallEqG1 ..
  | .cbTanyEqG2 .. | .cbTallEqG2 .. | .cbTanyEqG3 .. | .cbTallEqG3 .. => none

/-- Two states agree on all that an instruction may read besides `pc` and the configuration (R16): a compare branch
reads the values and types of its registers and `VEND`; a bit test the scalar part of its register; a group branch
the types of its group; the mask branch the type of its register. -/
def agreeOnReads (i : Instr) (s t : State) : Prop :=
  match i with
  | .cbAnyEqz ra _ | .cbAnyNez ra _ | .cbAnyLtz ra _ | .cbAnyGez ra _ | .cbAnyGtz ra _ | .cbAnyLez ra _
  | .cbAllEqz ra _ | .cbAllNez ra _ | .cbAllLtz ra _ | .cbAllGez ra _ | .cbAllGtz ra _ | .cbAllLez ra _ =>
    s.value ra = t.value ra ∧ s.typeOf ra = t.typeOf ra ∧ s.vend = t.vend
  | .cbAnyEq rb ra _ | .cbAnyNe rb ra _ | .cbAnyLts rb ra _ | .cbAnyGes rb ra _ | .cbAnyLtu rb ra _
  | .cbAnyGeu rb ra _ | .cbAllEq rb ra _ | .cbAllNe rb ra _ | .cbAllLts rb ra _ | .cbAllGes rb ra _
  | .cbAllLtu rb ra _ | .cbAllGeu rb ra _ =>
    s.value rb = t.value rb ∧ s.typeOf rb = t.typeOf rb ∧ s.value ra = t.value ra ∧ s.typeOf ra = t.typeOf ra ∧
      s.vend = t.vend
  | .cbBit1 r _ _ | .cbBit0 r _ _ => (s.value r).scalar = (t.value r).scalar
  | .cbTanyNeG0 .. | .cbTallNeG0 .. | .cbTanyEqG0 .. | .cbTallEqG0 .. => ∀ r : RegIdx, r.val < 4 → s.typeOf r = t.typeOf r
  | .cbTanyNeG1 .. | .cbTallNeG1 .. | .cbTanyEqG1 .. | .cbTallEqG1 .. => ∀ r : RegIdx, 4 ≤ r.val → r.val < 8 → s.typeOf r = t.typeOf r
  | .cbTanyNeG2 .. | .cbTallNeG2 .. | .cbTanyEqG2 .. | .cbTallEqG2 .. => ∀ r : RegIdx, 8 ≤ r.val → r.val < 12 → s.typeOf r = t.typeOf r
  | .cbTanyNeG3 .. | .cbTallNeG3 .. | .cbTanyEqG3 .. | .cbTallEqG3 .. => ∀ r : RegIdx, 12 ≤ r.val → s.typeOf r = t.typeOf r
  | .cbTmask rd _ _ => s.typeOf rd = t.typeOf rd

end Sys2Proof.Machine
end

