-- ==== Sys2Proof/Certificates/Slice0/Obligations.lean ====
section
/-! DEFINITION. The statements about the machine, each from the rules of spec/ that its docstring names. -/

open Sys2Proof Sys2Proof.Machine

/-- Decoding the parcels of any well-formed instruction gives it back. (30_encoding.md R56; 30_encoding.md R57;
30_encoding.md R58; 30_encoding.md R60; 30_encoding.md R61). -/
def Obligations.DecodeAfterEncodeGivesTheInstruction : Prop :=
  ∀ i : Instr, i.wf = true → ∃ ps, encode i = some ps ∧ ∀ rest, decode (ps ++ rest) = .ok (i, rest)

/-- Encoding whatever the decoder answers gives back the parcels it read. (30_encoding.md R56; 30_encoding.md R57;
30_encoding.md R58; 30_encoding.md R60; 30_encoding.md R64). -/
def Obligations.EncodeAfterDecodeGivesTheParcels : Prop :=
  ∀ (ps : List Parcel) (i : Instr) (rest : List Parcel), decode ps = .ok (i, rest) →
    i.wf = true ∧ ∃ enc, encode i = some enc ∧ ps = enc ++ rest

/-- The bytes of parcels, in either byte order, decode as the parcels do; little-endian puts bits 7:0 first.
(20_memory.md R32; 20_memory.md R33). -/
def Obligations.BytesInEitherOrderCarryTheParcels : Prop :=
  (∀ (o : ByteOrder) (ps : List Parcel), decodeBytes o (bytesOfParcels o ps) = decode ps) ∧
  ∀ lo hi : Byte, joinBytes .little lo hi = BitVec.ofNat 16 (lo.toNat + 2 ^ 8 * hi.toNat) ∧
    joinBytes .big lo hi = BitVec.ofNat 16 (hi.toNat + 2 ^ 8 * lo.toNat)

/-- BrOffset(E) is unsigned(E[15:1])*2 - 65536*E[0], an even number in [-65536, 65534]. (R56). -/
def Obligations.OffsetFieldSpellsASignedEvenOffset : Prop :=
  ∀ e : Parcel,
    brOffset e = (BitVec.ofBool (e.getLsbD 0) ++ e.extractLsb' 1 15 ++ 0#1 : BitVec 17).signExtend 32 ∧
    (brOffset e).toInt = 2 * ((e.toNat / 2 : Nat) : Int) - 65536 * ((e.toNat % 2 : Nat) : Int) ∧
    (brOffset e).toInt % 2 = 0 ∧ -65536 ≤ (brOffset e).toInt ∧ (brOffset e).toInt ≤ 65534

/-- FIELD_E decodes to VALUE exactly when VALUE is even and in range; every FIELD_E is legal; an encoder refuses the
rest. (R57). -/
def Obligations.OffsetRoundTripsExactlyWhenEncodable : Prop :=
  (∀ v : Word,
    encodeOffset v = ((v &&& 0xfffe#32) ||| ((v >>> 31) &&& 1#32)).setWidth 16 ∧
    (brOffset (encodeOffset v) = v ↔ v.toInt % 2 = 0 ∧ -65536 ≤ v.toInt ∧ v.toInt ≤ 65534)) ∧
  (∀ e : Parcel, encodeOffset (brOffset e) = e) ∧
  (∀ i : Instr, brOffset (encodeOffset i.value) ≠ i.value → encode i = none)

/-- FIELD_C 0..9, a..e selects bit 0..9, 14, 15, 16, 30, 31; a bit-test word with the code 0xf is undefined. (R60). -/
def Obligations.BitSelectorTable : Prop :=
  (List.range 16).map (fun c => (bitPos (BitVec.ofNat 4 c)).map Fin.val) =
    [some 0, some 1, some 2, some 3, some 4, some 5, some 6, some 7, some 8, some 9, some 14, some 15, some 16,
      some 30, some 31, none] ∧
  (∀ (c : Nibble) (p : Fin 32), bitPos c = some p → ¬(10 ≤ p.val ∧ p.val ≤ 13) ∧ ¬(17 ≤ p.val ∧ p.val ≤ 29)) ∧
  ∀ r : RegIdx,
    decodeForm (BitVec.ofNat 16 (0xfff0 + r.val)) = .error (.unknown (BitVec.ofNat 16 (0xfff0 + r.val))) ∧
    decodeForm (BitVec.ofNat 16 (0xff0f + 0x10 * r.val)) = .error (.unknown (BitVec.ofNat 16 (0xff0f + 0x10 * r.val)))

/-- Which code words decode to Unknown and which to NotInChapter. (30_encoding.md R58; 30_encoding.md R62). -/
def Obligations.UndefinedCodeWordsAreExactlyThese : Prop :=
  ∀ (w0 : Parcel) (d c b a : Nat), w0.toNat = 0x1000 * d + 0x100 * c + 0x10 * b + a →
    d < 16 → c < 16 → b < 16 → a < 16 →
    (decodeForm w0 = .error (.unknown w0) ↔
      (d = 0xf ∧ c = 0x0 ∧ (b = 0x6 ∨ b = 0x7 ∨ b = 0xe) ∧ a ≠ 0xf) ∨
      (d = 0xf ∧ (c = 0x7 ∨ c = 0x8 ∨ c = 0xf) ∧ b ≠ 0xf ∧ a ≠ 0xf) ∨
      (d = 0xf ∧ c = 0xf ∧ b = 0xf ∧ a ≠ 0xf) ∨
      (d = 0xf ∧ c = 0xf ∧ b ≠ 0xf ∧ a = 0xf) ∨
      (d = 0xf ∧ b = 0xf ∧ a = 0xf) ∨
      (8 ≤ d ∧ d ≤ 0xe ∧ c = 0x0 ∧ (b = 0x1 ∨ b = 0x2) ∧ a = 0xf)) ∧
    (decodeForm w0 = .error (.notInChapter w0) ↔
      d ≠ 0xf ∧ ¬(c = 0x0 ∧ (b = 0x1 ∨ b = 0x2 ∨ b = 0x3) ∧ a = 0xf))

/-- The 24 compare rows of the opcode table decode by mask and match to their instructions, operands in their fields.
(30_encoding.md R61; 30_encoding.md R55). -/
def Obligations.CompareRowsDecode : Prop :=
  ∀ (w0 e : Parcel) (rest : List Parcel) (ra : RegIdx), w0.toNat % 0x10 = ra.val →
    (w0 &&& 0xfff0 = 0xf000 → decode (w0 :: e :: rest) = .ok (.cbAnyEqz ra (brOffset e), rest)) ∧
    (w0 &&& 0xfff0 = 0xf010 → decode (w0 :: e :: rest) = .ok (.cbAnyNez ra (brOffset e), rest)) ∧
    (w0 &&& 0xfff0 = 0xf020 → decode (w0 :: e :: rest) = .ok (.cbAnyLtz ra (brOffset e), rest)) ∧
    (w0 &&& 0xfff0 = 0xf030 → decode (w0 :: e :: rest) = .ok (.cbAnyGez ra (brOffset e), rest)) ∧
    (w0 &&& 0xfff0 = 0xf040 → decode (w0 :: e :: rest) = .ok (.cbAnyGtz ra (brOffset e), rest)) ∧
    (w0 &&& 0xfff0 = 0xf050 → decode (w0 :: e :: rest) = .ok (.cbAnyLez ra (brOffset e), rest)) ∧
    (w0 &&& 0xfff0 = 0xf080 → decode (w0 :: e :: rest) = .ok (.cbAllEqz ra (brOffset e), rest)) ∧
    (w0 &&& 0xfff0 = 0xf090 → decode (w0 :: e :: rest) = .ok (.cbAllNez ra (brOffset e), rest)) ∧
    (w0 &&& 0xfff0 = 0xf0a0 → decode (w0 :: e :: rest) = .ok (.cbAllLtz ra (brOffset e), rest)) ∧
    (w0 &&& 0xfff0 = 0xf0b0 → decode (w0 :: e :: rest) = .ok (.cbAllGez ra (brOffset e), rest)) ∧
    (w0 &&& 0xfff0 = 0xf0c0 → decode (w0 :: e :: rest) = .ok (.cbAllGtz ra (brOffset e), rest)) ∧
    (w0 &&& 0xfff0 = 0xf0d0 → decode (w0 :: e :: rest) = .ok (.cbAllLez ra (brOffset e), rest)) ∧
    ∀ rb : RegIdx, w0.toNat / 0x10 % 0x10 = rb.val →
    (w0 &&& 0xff00 = 0xf100 → decode (w0 :: e :: rest) = .ok (.cbAnyEq rb ra (brOffset e), rest)) ∧
    (w0 &&& 0xff00 = 0xf200 → decode (w0 :: e :: rest) = .ok (.cbAnyNe rb ra (brOffset e), rest)) ∧
    (w0 &&& 0xff00 = 0xf300 → decode (w0 :: e :: rest) = .ok (.cbAnyLts rb ra (brOffset e), rest)) ∧
    (w0 &&& 0xff00 = 0xf400 → decode (w0 :: e :: rest) = .ok (.cbAnyGes rb ra (brOffset e), rest)) ∧
    (w0 &&& 0xff00 = 0xf500 → decode (w0 :: e :: rest) = .ok (.cbAnyLtu rb ra (brOffset e), rest)) ∧
    (w0 &&& 0xff00 = 0xf600 → decode (w0 :: e :: rest) = .ok (.cbAnyGeu rb ra (brOffset e), rest)) ∧
    (w0 &&& 0xff00 = 0xf900 → decode (w0 :: e :: rest) = .ok (.cbAllEq rb ra (brOffset e), rest)) ∧
    (w0 &&& 0xff00 = 0xfa00 → decode (w0 :: e :: rest) = .ok (.cbAllNe rb ra (brOffset e), rest)) ∧
    (w0 &&& 0xff00 = 0xfb00 → decode (w0 :: e :: rest) = .ok (.cbAllLts rb ra (brOffset e), rest)) ∧
    (w0 &&& 0xff00 = 0xfc00 → decode (w0 :: e :: rest) = .ok (.cbAllGes rb ra (brOffset e), rest)) ∧
    (w0 &&& 0xff00 = 0xfd00 → decode (w0 :: e :: rest) = .ok (.cbAllLtu rb ra (brOffset e), rest)) ∧
    (w0 &&& 0xff00 = 0xfe00 → decode (w0 :: e :: rest) = .ok (.cbAllGeu rb ra (brOffset e), rest))

/-- The two bit-test rows of the opcode table decode by mask and match, and win over the compare patterns.
(30_encoding.md R61; 30_encoding.md R55; 30_encoding.md R60). -/
def Obligations.BitTestRowsDecode : Prop :=
  ∀ (w0 e : Parcel) (rest : List Parcel) (c : Nibble) (p : Fin 32) (r : RegIdx),
    w0.toNat / 0x100 % 0x10 = c.toNat → bitPos c = some p →
    (w0 &&& 0xf0f0 = 0xf0f0 → w0.toNat % 0x10 = r.val →
      decode (w0 :: e :: rest) = .ok (.cbBit1 r p (brOffset e), rest)) ∧
    (w0 &&& 0xf00f = 0xf00f → w0.toNat / 0x10 % 0x10 = r.val →
      decode (w0 :: e :: rest) = .ok (.cbBit0 r p (brOffset e), rest))

/-- The 17 type-test rows of the opcode table decode to their instructions, type fields in their nibbles.
(30_encoding.md R61; 30_encoding.md R53; 30_encoding.md R55). -/
def Obligations.TypeTestRowsDecode : Prop :=
  ∀ (e f : Parcel) (rest : List Parcel) (t : TypeWord),
    f.toNat = 0x1000 * t.d.toNat + 0x100 * t.c.toNat + 0x10 * t.b.toNat + t.a.toNat →
    decode (0x1f :: e :: f :: rest) = .ok (.cbTanyNeG0 (brOffset e) t, rest) ∧
    decode (0x2f :: e :: f :: rest) = .ok (.cbTallNeG0 (brOffset e) t, rest) ∧
    decode (0x101f :: e :: f :: rest) = .ok (.cbTanyNeG1 (brOffset e) t, rest) ∧
    decode (0x102f :: e :: f :: rest) = .ok (.cbTallNeG1 (brOffset e) t, rest) ∧
    decode (0x201f :: e :: f :: rest) = .ok (.cbTanyNeG2 (brOffset e) t, rest) ∧
    decode (0x202f :: e :: f :: rest) = .ok (.cbTallNeG2 (brOffset e) t, rest) ∧
    decode (0x301f :: e :: f :: rest) = .ok (.cbTanyNeG3 (brOffset e) t, rest) ∧
    decode (0x302f :: e :: f :: rest) = .ok (.cbTallNeG3 (brOffset e) t, rest) ∧
    decode (0x401f :: e :: f :: rest) = .ok (.cbTanyEqG0 (brOffset e) t, rest) ∧
    decode (0x402f :: e :: f :: rest) = .ok (.cbTallEqG0 (brOffset e) t, rest) ∧
    decode (0x501f :: e :: f :: rest) = .ok (.cbTanyEqG1 (brOffset e) t, rest) ∧
    decode (0x502f :: e :: f :: rest) = .ok (.cbTallEqG1 (brOffset e) t, rest) ∧
    decode (0x601f :: e :: f :: rest) = .ok (.cbTanyEqG2 (brOffset e) t, rest) ∧
    decode (0x602f :: e :: f :: rest) = .ok (.cbTallEqG2 (brOffset e) t, rest) ∧
    decode (0x701f :: e :: f :: rest) = .ok (.cbTanyEqG3 (brOffset e) t, rest) ∧
    decode (0x702f :: e :: f :: rest) = .ok (.cbTallEqG3 (brOffset e) t, rest) ∧
    ∀ (w0 : Parcel) (rd : RegIdx), w0 &&& 0x0fff = 0x003f → w0.toNat / 0x1000 = rd.val →
      decode (w0 :: e :: f :: rest) = .ok (.cbTmask rd (brOffset e) f, rest)

/-- A decoded instruction takes 4 bytes when FIELD_D is 0xf and 6 bytes otherwise. (30_encoding.md R50; 30_encoding.md
R59). -/
def Obligations.DecodedLengthIsFourOrSixBytes : Prop :=
  ∀ (w0 : Parcel) (ps : List Parcel) (i : Instr) (rest : List Parcel), decode (w0 :: ps) = .ok (i, rest) →
    2 * (w0 :: ps).length = i.length + 2 * rest.length ∧
    i.length = if w0.toNat / 0x1000 = 0xf then 4 else 6

/-- A few code words of the spec decode to the instructions the spec says. (30_encoding.md R58; 95_test_vectors.md
section 2.2). -/
def Obligations.WrittenOutWordsDecode : Prop :=
  decode [0xf003, 0x0010] = .ok (.cbAnyEqz 3 16, []) ∧
  decode [0xf05e, 0x0010] = .ok (.cbAnyLez 14 16, []) ∧
  decode [0xf123, 0xfff9] = .ok (.cbAnyEq 2 3 (-8), []) ∧
  decode [0xfe45, 0x0004] = .ok (.cbAllGeu 4 5 4, []) ∧
  decode [0xf1f2, 0x0002] = .ok (.cbBit1 2 1 2, []) ∧
  decode [0xf03f, 0x0008] = .ok (.cbBit0 3 0 8, []) ∧
  decode [0x001f, 0x001c, 0xff21] = .ok (.cbTanyNeG0 28 { a := 1, b := 2, c := 0xf, d := 0xf }, []) ∧
  decode [0x702f, 0x0020, 0x3f21] = .ok (.cbTallEqG3 32 { a := 1, b := 2, c := 0xf, d := 3 }, []) ∧
  decode [0x403f, 0x0016, 0x0006] = .ok (.cbTmask 4 22 0x0006, []) ∧
  decode [0xf712, 0x0000] = .error (.unknown 0xf712) ∧
  decode [0x1234, 0x0000] = .error (.notInChapter 0x1234)

/-- When the parcels at pc decode to an instruction, step is exec of it at the same state. (40_cbranch_common.md R100;
20_memory.md R32). -/
def Obligations.StepRunsTheDecodedInstruction : Prop :=
  ∀ (s : State) (ps : List Parcel) (i : Instr), Alive s → s.pc.getLsbD 0 = false →
    HoldsParcels s s.pc ps → decode ps = .ok (i, []) → step s = exec i s

/-- Odd pc, missing parcel 0, undefined word, missing parcel 1 or 2 end the step in that order; else the instruction
runs. (40_cbranch_common.md R100; 60_exceptions.md R205; 20_memory.md R35; 30_encoding.md R63). The source gives no
order: the order is a choice (R100, R205, D25; log 30), and so are the refusals and the stuck outcome (log 5, 18, 21).
-/
def Obligations.FetchOutcomesInOrder : Prop :=
  ∀ s : State, Alive s →
    (s.pc.getLsbD 0 = true → step s = .refused (.misalignedPc s.pc)) ∧
    (s.pc.getLsbD 0 = false →
      (s.readParcel s.pc = none → step s = .fault (.stuck s.pc)) ∧
      ∀ w0, s.readParcel s.pc = some w0 →
        (∀ err, decodeForm w0 = .error err → step s = .refused (.unknownEncoding s.pc w0)) ∧
        (∀ mk, decodeForm w0 = .ok (.short mk) →
          (s.readParcel (s.pc + 2#32) = none → step s = .fault (.stuck s.pc)) ∧
          ∀ e, s.readParcel (s.pc + 2#32) = some e → step s = exec (mk (brOffset e)) s) ∧
        (∀ mk, decodeForm w0 = .ok (.long mk) →
          (s.readParcel (s.pc + 2#32) = none ∨ s.readParcel (s.pc + 4#32) = none → step s = .fault (.stuck s.pc)) ∧
          ∀ e f, s.readParcel (s.pc + 2#32) = some e → s.readParcel (s.pc + 4#32) = some f →
            step s = exec (mk (brOffset e) f) s)) ∧
    ((∃ p, step s = .fault (.stuck p)) ∨ (∃ p, step s = .refused (.misalignedPc p)) ∨
        (∃ p w, step s = .refused (.unknownEncoding p w)) →
      (runEnd (step s)).map RunEnd.final = some false ∧ ∃ r, advance s = { s with record := r })

/-- At an address of HALT_SET the step answers halted, whatever memory holds, and the state is unchanged.
(70_reset_and_hazards.md R227). The form of the end is the model's choice: log 24. -/
def Obligations.HaltAddressEndsTheRunBeforeTheFetch : Prop :=
  ∀ s : State, s.record = none → s.pc ∈ s.cfg.haltSet →
    step s = .fault (.halted s.pc) ∧ runEnd (step s) = some .halted ∧ RunEnd.final .halted = true ∧ advance s = s

/-- A state with a recorded outcome answers that outcome again and keeps the record (model's form, log 31).
(10_state.md R27). The answer again is the model's choice: log 31. -/
def Obligations.RecordedOutcomeStays : Prop :=
  ∀ (s : State) (r : EndRecord), s.record = some r → step s = r.outcome ∧ advance s = s

/-- exc_type records the branch's address and the parcel 0 that memory holds there; nothing else changes; the run
ends. (60_exceptions.md R202; 60_exceptions.md R203; 10_state.md R27). That the fault is terminal is a choice (D9; log
10); that a later step leaves the state is the model's choice (log 31). -/
def Obligations.ExcTypeIsRecordedPrecisely : Prop :=
  ∀ (s : State) (p : Word) (w : Parcel), s.record = none → step s = .fault (.excType p w) →
    p = s.pc ∧ s.readParcel s.pc = some w ∧ advance s = { s with record := some (.fault s.pc w) } ∧
    runEnd (step s) = some .faulted ∧ RunEnd.final .faulted = true ∧ advance (advance s) = advance s

/-- A step that does not complete changes nothing but the record, and no later step goes on. (60_exceptions.md R212;
70_reset_and_hazards.md R227; 10_state.md R27). That a later step answers the same end again, and that the end of a
halted run is answered by a step, are the model's choice (log 31, 24); that the fault is terminal is a choice (log
10). -/
def Obligations.EveryEndLeavesTheStateAndEndsTheRun : Prop :=
  ∀ s : State, (∀ t, step s ≠ .next t) →
    advance s = { s with record := (advance s).record } ∧ step (advance s) = step s ∧
    advance (advance s) = advance s ∧
    ((∃ r, step s = .refused r) → (runEnd (step s)).map RunEnd.final = some false) ∧
    (∀ p, step s = .fault (.stuck p) → (runEnd (step s)).map RunEnd.final = some false) ∧
    (∀ p, step s = .fault (.halted p) → (runEnd (step s)).map RunEnd.final = some true) ∧
    (∀ p w, step s = .fault (.excType p w) → (runEnd (step s)).map RunEnd.final = some true)

/-- Every stop of a step is one the spec lists, under the condition it gives. (60_exceptions.md R200; 60_exceptions.md
R201; 60_exceptions.md R205; 60_exceptions.md R212; 20_memory.md R35; 40_cbranch_common.md R102;
70_reset_and_hazards.md R227). The refusals, the stuck outcome, the terminal fault, their order and the answer at a
halt address are choices (log 5, 10, 11, 18, 21, 24, 30); that UnknownType names the type code of $rA for two operands
is DEDUCED (log 33). -/
def Obligations.RefusalsAndFaultsAreTheSpecs : Prop :=
  ∀ s : State, s.record = none →
    (∀ r, step s = .refused r → s.pc ∉ s.cfg.haltSet ∧
      ((r = .misalignedPc s.pc ∧ s.pc.getLsbD 0 = true) ∨
      (s.pc.getLsbD 0 = false ∧
        ∃ w0 err, r = .unknownEncoding s.pc w0 ∧ s.readParcel s.pc = some w0 ∧ decodeForm w0 = .error err) ∨
      (s.pc.getLsbD 0 = false ∧
        ∃ ps i left code, HoldsParcels s s.pc ps ∧ decode ps = .ok (i, []) ∧
          handledTypes i s = some (left, code) ∧ typeRule s.cfg left code = .compare none ∧
          r = .unknownType s.pc code))) ∧
    (∀ f, step s = .fault f →
      (s.pc ∉ s.cfg.haltSet ∧ s.pc.getLsbD 0 = false ∧
        ∃ ps i w0 left right, HoldsParcels s s.pc ps ∧ decode ps = .ok (i, []) ∧ ps.head? = some w0 ∧
          handledTypes i s = some (left, right) ∧ typeRule s.cfg left right = .excType ∧
          f = .excType s.pc w0) ∨
      (s.pc ∉ s.cfg.haltSet ∧ s.pc.getLsbD 0 = false ∧ f = .stuck s.pc ∧
        (s.readParcel s.pc = none ∨
          ∃ w0, s.readParcel s.pc = some w0 ∧
            ((∃ mk, decodeForm w0 = .ok (.short mk) ∧ s.readParcel (s.pc + 2#32) = none) ∨
            (∃ mk, decodeForm w0 = .ok (.long mk) ∧
              (s.readParcel (s.pc + 2#32) = none ∨ s.readParcel (s.pc + 4#32) = none))))) ∨
      (f = .halted s.pc ∧ s.pc ∈ s.cfg.haltSet))

/-- Every launch premise is kept by every step. (70_reset_and_hazards.md R221; 20_memory.md R37; 10_state.md R18). -/
def Obligations.StepKeepsLaunchPremises : Prop :=
  ∀ s t : State, LaunchOk s → step s = .next t → LaunchOk t

/-- The model's reset state meets the launch premises (its values are the model's choice, log 12, 20).
(70_reset_and_hazards.md R221; 70_reset_and_hazards.md R220). The reset values are the model's choice: log 12, 15, 20,
24. -/
def Obligations.ResetMeetsLaunchPremises : Prop :=
  LaunchOk State.reset ∧ State.reset.record = none

/-- A completed step changes no register, type, VEND, VSTART, byte of memory, parameter or record: pc only.
(10_state.md R16; 10_state.md R28; 20_memory.md R41). -/
def Obligations.StepWritesPcOnly : Prop :=
  ∀ s t : State, step s = .next t →
    t = { s with pc := t.pc } ∧ (∀ r, t.value r = s.value r ∧ t.typeOf r = s.typeOf r) ∧
    (∀ a, t.mem.read a = s.mem.read a)

/-- A branch moves pc to pc + len or to base + BrOffset(FIELD_E); a step that does not complete leaves pc.
(10_state.md R19; 40_cbranch_common.md R101). -/
def Obligations.PcGoesToTheFallThroughOrTheTarget : Prop :=
  (∀ s t : State, step s = .next t →
    ∃ (ps : List Parcel) (i : Instr) (e : Parcel), HoldsParcels s s.pc ps ∧ decode ps = .ok (i, []) ∧ ps[1]? = some e ∧
      (i.length = 4 ∧ ps.length = 2 ∨ i.length = 6 ∧ ps.length = 3) ∧ exec i s = .next t ∧
      (t.pc = s.pc + BitVec.ofNat 32 i.length ∨
        t.pc = (match s.cfg.branchBase with | .thisInsn => s.pc | .nextInsn => s.pc + BitVec.ofNat 32 i.length) +
          brOffset e)) ∧
  ∀ s : State, (∀ t, step s ≠ .next t) → (advance s).pc = s.pc

/-- After any number of steps from an admitted launch state, only pc has changed, and it is even. (10_state.md R16;
70_reset_and_hazards.md R221; 70_reset_and_hazards.md R223). -/
def Obligations.RunsKeepEverythingButPc : Prop :=
  ∀ (k : Nat) (s t : State), LaunchOk s → Sys2Proof.core.run k s = .next t →
    t = { s with pc := t.pc } ∧ t.pc.getLsbD 0 = false ∧ LaunchOk t

/-- From a state with a table word placed where the step fetches, the next step is exec of the word's instruction.
(20_memory.md R32; 20_memory.md R33; 40_cbranch_common.md R100). How a program is placed is the model's: log 32. -/
def Obligations.PlacedInstructionIsTheOneThatRuns : Prop :=
  ∀ (s : State) (nbits w : Nat) (i : Instr), decodeTableWord nbits w = some i →
    step (s.withFetchWord nbits w) = exec i (s.withFetchWord nbits w)

/-- CB_ANY_EQZ, NEZ, LTZ, GEZ, GTZ, LEZ: encoding, type handling, condition, pc, and nothing else. (R121; R122; R123;
R124; R125; R126). -/
def Obligations.CompareWithZeroAnyBranches : Prop :=
  ZeroBranchRule .cbAnyEqz .any .eqz 0x0 (fun _ a => a = 0) ∧
  ZeroBranchRule .cbAnyNez .any .nez 0x1 (fun _ a => a ≠ 0) ∧
  ZeroBranchRule .cbAnyLtz .any .ltz 0x2 (fun _ a => a.toInt < 0) ∧
  ZeroBranchRule .cbAnyGez .any .gez 0x3 (fun _ a => 0 ≤ a.toInt) ∧
  ZeroBranchRule .cbAnyGtz .any .gtz 0x4 (fun _ a => 0 < a.toInt) ∧
  ZeroBranchRule .cbAnyLez .any .lez 0x5 (fun _ a => a.toInt ≤ 0)

/-- CB_ALL_EQZ, NEZ, LTZ, GEZ, GTZ, LEZ: encoding, type handling, condition, pc, and nothing else. (R127; R128; R129;
R130; R131; R132). -/
def Obligations.CompareWithZeroAllBranches : Prop :=
  ZeroBranchRule .cbAllEqz .all .eqz 0x8 (fun _ a => a = 0) ∧
  ZeroBranchRule .cbAllNez .all .nez 0x9 (fun _ a => a ≠ 0) ∧
  ZeroBranchRule .cbAllLtz .all .ltz 0xa (fun _ a => a.toInt < 0) ∧
  ZeroBranchRule .cbAllGez .all .gez 0xb (fun _ a => 0 ≤ a.toInt) ∧
  ZeroBranchRule .cbAllGtz .all .gtz 0xc (fun _ a => 0 < a.toInt) ∧
  ZeroBranchRule .cbAllLez .all .lez 0xd (fun _ a => a.toInt ≤ 0)

/-- CB_ANY_EQ, NE, LTS, GES, LTU, GEU: encoding, type handling, condition, pc, and nothing else. (42_cbranch_reg.md
R141; 42_cbranch_reg.md R142; 42_cbranch_reg.md R143; 42_cbranch_reg.md R144; 42_cbranch_reg.md R145;
42_cbranch_reg.md R146; 40_cbranch_common.md R102). That UnknownType names the type code of $rA is the model's choice,
DEDUCED: R102 does not say which of the two codes (log 33). -/
def Obligations.CompareRegistersAnyBranches : Prop :=
  RegBranchRule .cbAnyEq .any .eq 0x1 (fun _ b a => b = a) ∧
  RegBranchRule .cbAnyNe .any .ne 0x2 (fun _ b a => b ≠ a) ∧
  RegBranchRule .cbAnyLts .any .lts 0x3 (fun _ b a => b.toInt < a.toInt) ∧
  RegBranchRule .cbAnyGes .any .ges 0x4 (fun _ b a => a.toInt ≤ b.toInt) ∧
  RegBranchRule .cbAnyLtu .any .ltu 0x5 (fun _ b a => b.toNat < a.toNat) ∧
  RegBranchRule .cbAnyGeu .any .geu 0x6 (fun _ b a => a.toNat ≤ b.toNat)

/-- CB_ALL_EQ, NE, LTS, GES, LTU, GEU: encoding, type handling, condition, pc, and nothing else. (42_cbranch_reg.md
R147; 42_cbranch_reg.md R148; 42_cbranch_reg.md R149; 42_cbranch_reg.md R150; 42_cbranch_reg.md R151;
42_cbranch_reg.md R152; 40_cbranch_common.md R102). That UnknownType names the type code of $rA is the model's choice,
DEDUCED: R102 does not say which of the two codes (log 33). -/
def Obligations.CompareRegistersAllBranches : Prop :=
  RegBranchRule .cbAllEq .all .eq 0x9 (fun _ b a => b = a) ∧
  RegBranchRule .cbAllNe .all .ne 0xa (fun _ b a => b ≠ a) ∧
  RegBranchRule .cbAllLts .all .lts 0xb (fun _ b a => b.toInt < a.toInt) ∧
  RegBranchRule .cbAllGes .all .ges 0xc (fun _ b a => a.toInt ≤ b.toInt) ∧
  RegBranchRule .cbAllLtu .all .ltu 0xd (fun _ b a => b.toNat < a.toNat) ∧
  RegBranchRule .cbAllGeu .all .geu 0xe (fun _ b a => a.toNat ≤ b.toNat)

/-- CB_BIT1 and CB_BIT0: encoding, the bit of the scalar part, pc, and nothing else. (R161; R162). -/
def Obligations.BitTestBranches : Prop :=
  ∀ (r : RegIdx) (c : Nibble) (p : Fin 32) (value : Word), bitPos c = some p →
    (encodableOffset value = true →
      encode (.cbBit1 r p value) = some [BitVec.ofNat 16 (0xf0f0 + 0x100 * c.toNat + r.val), encodeOffset value] ∧
      encode (.cbBit0 r p value) =
        some [BitVec.ofNat 16 (0xf00f + 0x100 * c.toNat + 0x10 * r.val), encodeOffset value]) ∧
    ∀ s : State,
      BranchesExactlyWhen (.cbBit1 r p value) 4 value s ((s.value r).scalar.getLsbD p.val = true) ∧
      BranchesExactlyWhen (.cbBit0 r p value) 4 value s ((s.value r).scalar.getLsbD p.val = false) ∧
      Opposite (.cbBit1 r p value) (.cbBit0 r p value) 4 value s

/-- CB_TANY_NE_G0..G3 and CB_TANY_EQ_G0..G3: encoding, the types tested, pc, and nothing else. (R173; R176; R178;
R180; R182; R184; R186; R188). -/
def Obligations.TypeGroupAnyBranches : Prop :=
  GroupBranchRule .cbTanyNeG0 0x1f .any .ne (fun t => [(0, t.a), (1, t.b), (2, t.c), (3, t.d)]) ∧
  GroupBranchRule .cbTanyNeG1 0x101f .any .ne (fun t => [(4, t.a), (5, t.b), (6, t.c), (7, t.d)]) ∧
  GroupBranchRule .cbTanyNeG2 0x201f .any .ne (fun t => [(8, t.a), (9, t.b), (10, t.c), (11, t.d)]) ∧
  GroupBranchRule .cbTanyNeG3 0x301f .any .ne (fun t => [(12, t.a), (13, t.b), (14, t.c)]) ∧
  GroupBranchRule .cbTanyEqG0 0x401f .any .eq (fun t => [(0, t.a), (1, t.b), (2, t.c), (3, t.d)]) ∧
  GroupBranchRule .cbTanyEqG1 0x501f .any .eq (fun t => [(4, t.a), (5, t.b), (6, t.c), (7, t.d)]) ∧
  GroupBranchRule .cbTanyEqG2 0x601f .any .eq (fun t => [(8, t.a), (9, t.b), (10, t.c), (11, t.d)]) ∧
  GroupBranchRule .cbTanyEqG3 0x701f .any .eq (fun t => [(12, t.a), (13, t.b), (14, t.c)])

/-- CB_TALL_NE_G0..G3 and CB_TALL_EQ_G0..G3: encoding, the types tested, pc, and nothing else. (R174; R177; R179;
R181; R183; R185; R187; R189). -/
def Obligations.TypeGroupAllBranches : Prop :=
  GroupBranchRule .cbTallNeG0 0x2f .all .ne (fun t => [(0, t.a), (1, t.b), (2, t.c), (3, t.d)]) ∧
  GroupBranchRule .cbTallNeG1 0x102f .all .ne (fun t => [(4, t.a), (5, t.b), (6, t.c), (7, t.d)]) ∧
  GroupBranchRule .cbTallNeG2 0x202f .all .ne (fun t => [(8, t.a), (9, t.b), (10, t.c), (11, t.d)]) ∧
  GroupBranchRule .cbTallNeG3 0x302f .all .ne (fun t => [(12, t.a), (13, t.b), (14, t.c)]) ∧
  GroupBranchRule .cbTallEqG0 0x402f .all .eq (fun t => [(0, t.a), (1, t.b), (2, t.c), (3, t.d)]) ∧
  GroupBranchRule .cbTallEqG1 0x502f .all .eq (fun t => [(4, t.a), (5, t.b), (6, t.c), (7, t.d)]) ∧
  GroupBranchRule .cbTallEqG2 0x602f .all .eq (fun t => [(8, t.a), (9, t.b), (10, t.c), (11, t.d)]) ∧
  GroupBranchRule .cbTallEqG3 0x702f .all .eq (fun t => [(12, t.a), (13, t.b), (14, t.c)])

/-- CB_TMASK: encoding, the mask bit of the type by TYPE_MASK_LSB, pc, and nothing else. (R175). -/
def Obligations.TypeMaskBranch : Prop :=
  ∀ (rd : RegIdx) (value : Word) (f : Parcel),
    (encodableOffset value = true →
      encode (.cbTmask rd value f) = some [BitVec.ofNat 16 (0x1000 * rd.val + 0x3f), encodeOffset value, f]) ∧
    ∀ s : State,
      (s.cfg.maskPlacement = .lsb0 →
        BranchesExactlyWhen (.cbTmask rd value f) 6 value s (f.getLsbD (s.typeOf rd).val = false) ∧
        exec (.cbTmask rd value (f ^^^ 0x8000#16)) s = exec (.cbTmask rd value f) s ∧
        (f &&& 0x7fff#16 = 0x7fff#16 → exec (.cbTmask rd value f) s = .next (s.notTaken 6)) ∧
        (f &&& 0x7fff#16 = 0#16 → exec (.cbTmask rd value f) s = .next (s.taken 6 value))) ∧
      (s.cfg.maskPlacement = .lsb1 →
        BranchesExactlyWhen (.cbTmask rd value f) 6 value s (f.getLsbD ((s.typeOf rd).val + 1) = false) ∧
        exec (.cbTmask rd value (f ^^^ 0x0001#16)) s = exec (.cbTmask rd value f) s ∧
        (f &&& 0xfffe#16 = 0xfffe#16 → exec (.cbTmask rd value f) s = .next (s.notTaken 6)) ∧
        (f &&& 0xfffe#16 = 0#16 → exec (.cbTmask rd value f) s = .next (s.taken 6 value)))

/-- exc_type is raised exactly when CBRANCH_TYPE_RULE answers ExcType; no other instruction raises anything. (R201).
-/
def Obligations.ExcTypeExactlyWhenTheRuleSays : Prop :=
  (∀ (i : Instr) (s : State),
    ((∃ w0, exec i s = .fault (.excType s.pc w0)) ↔
      ∃ left right, handledTypes i s = some (left, right) ∧ typeRule s.cfg left right = .excType) ∧
    (∀ f, exec i s = .fault f → ∃ w0, f = .excType s.pc w0)) ∧
  ∀ s : State, s.cfg.typeRules = [] →
    (∀ mk ∈ zeroForms, ∀ ra value f, exec (mk ra value) s ≠ .fault f) ∧
    (∀ mk ∈ regForms, ∀ rb ra value,
      (∃ f, exec (mk rb ra value) s = .fault f) ↔ s.typeOf rb ≠ s.typeOf ra)

/-- CBRANCH_TYPE_RULE answers what the configuration sets, else the default rule. (40_cbranch_common.md R102;
00_scope.md R5). The default rule is the spec's own choice (D8); that the rule is a list of entries over it, an entry
deciding its pair and no other, is the model's form, DESIGN CHOICE (log 9). -/
def Obligations.TypeRuleIsTheEntryElseTheDefault : Prop :=
  ∀ (c : Config) (left : Option TypeCode) (tb ta : TypeCode) (r : TypeRuling),
    (c.typeRules = [] →
      typeRule c none ta = .compare (c.typeTable.get ta) ∧
      typeRule c (some ta) ta = .compare (c.typeTable.get ta) ∧
      (tb ≠ ta → typeRule c (some tb) ta = .excType)) ∧
    typeRule { c with typeRules := { left := left, right := ta, ruling := r } :: c.typeRules } left ta = r ∧
    ∀ left' ta', (left', ta') ≠ (left, ta) →
      typeRule { c with typeRules := { left := left, right := ta, ruling := r } :: c.typeRules } left' ta' =
        typeRule c left' ta'

/-- NLanes is 1 for a scalar type and ACTIVE_LANES(d, VEND), at most VLEN_BITS / d.w where d.w is not 0, for a vector
type. (40_cbranch_common.md R103; 00_scope.md R5). That ACTIVE_LANES is what a list of the configuration sets, else a
free value, either cut to the bound, is the model's form, DESIGN CHOICE (log 15). So is that nothing is cut at lane
width 0, where the bound has no value (log 38). -/
def Obligations.LaneCountIsOneOrBounded : Prop :=
  (∀ (s : State) (d : Descriptor),
    (d.shape = .scalar → nLanes s d = 1) ∧
    (d.shape = .vector → nLanes s d = activeLanes s.cfg d s.vend ∧
      (0 < d.width → nLanes s d ≤ s.cfg.vlenBits / d.width))) ∧
  ∀ (c : Config) (e : LaneCountEntry) (d : Descriptor) (vend : Nat),
    activeLanes { c with laneCounts := e :: c.laneCounts } e.desc e.vend =
      (if e.desc.width = 0 then e.lanes else min e.lanes (c.vlenBits / e.desc.width)) ∧
    ((d, vend) ≠ (e.desc, e.vend) →
      activeLanes { c with laneCounts := e :: c.laneCounts } d vend = activeLanes c d vend) ∧
    (c.laneCounts = [] → activeLanes c d vend =
      if d.width = 0 then Config.freeLanes d vend else min (Config.freeLanes d vend) (c.vlenBits / d.width))

/-- Lane i of width w is bits w*i + w - 1 : w*i of the register value; the 32-bit lane 0 is the scalar part.
(40_cbranch_common.md R108; 10_state.md R12). That lane 0 is the least significant is the spec's own choice (D12; log
17); the words of a value are the model's form (log 14); a lane outside the value is a free value, of which nothing is
said (log 36). -/
def Obligations.LaneIsItsSliceOfTheRegister : Prop :=
  ∀ v : RegValue,
    (∀ w i : Nat, w * i + w ≤ 32 * (v.upper.length + 1) → ∀ j < w,
      ∃ word, (v.scalar :: v.upper)[(w * i + j) / 32]? = some word ∧
        (lane v w i).getLsbD j = word.getLsbD ((w * i + j) % 32)) ∧
    lane v 32 0 = v.scalar

/-- The any form of a relation is taken exactly when the all form of the negated relation is not.
(40_cbranch_common.md R110; 40_cbranch_common.md R105; 44_cbranch_type.md R170). -/
def Obligations.NegatedRelationsBranchOpposite : Prop :=
  (∀ p ∈ ([(.cbAnyEqz, .cbAllNez), (.cbAnyNez, .cbAllEqz), (.cbAnyLtz, .cbAllGez), (.cbAnyGez, .cbAllLtz), (.cbAnyGtz, .cbAllLez), (.cbAnyLez, .cbAllGtz)] :
      List ((RegIdx → Word → Instr) × (RegIdx → Word → Instr))),
    ∀ (ra : RegIdx) (value : Word) (s : State) (d : Descriptor),
      typeRule s.cfg none (s.typeOf ra) = .compare (some d) → d.kind = .fixed →
      Opposite (p.1 ra value) (p.2 ra value) 4 value s) ∧
  (∀ p ∈ ([(.cbAnyEq, .cbAllNe), (.cbAnyNe, .cbAllEq), (.cbAnyLts, .cbAllGes), (.cbAnyGes, .cbAllLts), (.cbAnyLtu, .cbAllGeu), (.cbAnyGeu, .cbAllLtu)] :
      List ((RegIdx → RegIdx → Word → Instr) × (RegIdx → RegIdx → Word → Instr))),
    ∀ (rb ra : RegIdx) (value : Word) (s : State) (d : Descriptor),
      typeRule s.cfg (some (s.typeOf rb)) (s.typeOf ra) = .compare (some d) → d.kind = .fixed →
      Opposite (p.1 rb ra value) (p.2 rb ra value) 4 value s) ∧
  (∀ p ∈ ([(.cbTanyNeG0, .cbTallEqG0), (.cbTanyNeG1, .cbTallEqG1), (.cbTanyNeG2, .cbTallEqG2), (.cbTanyNeG3, .cbTallEqG3),
      (.cbTanyEqG0, .cbTallNeG0), (.cbTanyEqG1, .cbTallNeG1), (.cbTanyEqG2, .cbTallNeG2), (.cbTanyEqG3, .cbTallNeG3)] :
      List ((Word → TypeWord → Instr) × (Word → TypeWord → Instr))),
    ∀ (value : Word) (t : TypeWord) (s : State), Opposite (p.1 value t) (p.2 value t) 6 value s)

/-- Under a scalar fixed point type the any and the all form behave identically and VEND is not read.
(40_cbranch_common.md R106; 40_cbranch_common.md R109). -/
def Obligations.ScalarTypesMakeAnyAndAllAlike : Prop :=
  (∀ p ∈ ([(.cbAnyEqz, .cbAllEqz), (.cbAnyNez, .cbAllNez), (.cbAnyLtz, .cbAllLtz), (.cbAnyGez, .cbAllGez), (.cbAnyGtz, .cbAllGtz), (.cbAnyLez, .cbAllLez)] :
      List ((RegIdx → Word → Instr) × (RegIdx → Word → Instr))),
    ∀ (ra : RegIdx) (value : Word) (s : State) (d : Descriptor) (vend : Nat),
      typeRule s.cfg none (s.typeOf ra) = .compare (some d) → d.kind = .fixed → d.shape = .scalar →
      ∃ a : Word, exec (p.1 ra value) s = .next { s with pc := a } ∧ exec (p.2 ra value) s = .next { s with pc := a } ∧
        exec (p.1 ra value) { s with vend := vend } = .next { s with pc := a, vend := vend }) ∧
  (∀ p ∈ ([(.cbAnyEq, .cbAllEq), (.cbAnyNe, .cbAllNe), (.cbAnyLts, .cbAllLts), (.cbAnyGes, .cbAllGes), (.cbAnyLtu, .cbAllLtu), (.cbAnyGeu, .cbAllGeu)] :
      List ((RegIdx → RegIdx → Word → Instr) × (RegIdx → RegIdx → Word → Instr))),
    ∀ (rb ra : RegIdx) (value : Word) (s : State) (d : Descriptor) (vend : Nat),
      typeRule s.cfg (some (s.typeOf rb)) (s.typeOf ra) = .compare (some d) → d.kind = .fixed → d.shape = .scalar →
      ∃ a : Word,
        exec (p.1 rb ra value) s = .next { s with pc := a } ∧ exec (p.2 rb ra value) s = .next { s with pc := a } ∧
        exec (p.1 rb ra value) { s with vend := vend } = .next { s with pc := a, vend := vend })

/-- With one register in both fields, EQ, GES, GEU hold and NE, LTS, LTU fail in every lane. (40_cbranch_common.md
R112; 30_encoding.md R66). -/
def Obligations.RegisterComparedWithItself : Prop :=
  ∀ (r : RegIdx) (value : Word) (s : State) (d : Descriptor),
    typeRule s.cfg (some (s.typeOf r)) (s.typeOf r) = .compare (some d) → d.kind = .fixed →
    (∀ mk ∈ ([.cbAnyEq, .cbAnyGes, .cbAnyGeu] : List (RegIdx → RegIdx → Word → Instr)),
      BranchesExactlyWhen (mk r r value) 4 value s (0 < nLanes s d)) ∧
    (∀ mk ∈ ([.cbAllEq, .cbAllGes, .cbAllGeu] : List (RegIdx → RegIdx → Word → Instr)),
      exec (mk r r value) s = .next (s.taken 4 value)) ∧
    (∀ mk ∈ ([.cbAnyNe, .cbAnyLts, .cbAnyLtu] : List (RegIdx → RegIdx → Word → Instr)),
      exec (mk r r value) s = .next (s.notTaken 4)) ∧
    (∀ mk ∈ ([.cbAllNe, .cbAllLts, .cbAllLtu] : List (RegIdx → RegIdx → Word → Instr)),
      BranchesExactlyWhen (mk r r value) 4 value s (nLanes s d = 0))

/-- Two states that agree on an instruction's reads give the same outcome and the same pc; pc is all that is written.
(10_state.md R16; 40_cbranch_common.md R104; 43_cbranch_bit.md R160; 44_cbranch_type.md R170). -/
def Obligations.InstructionsReadOnlyWhatTheSpecLists : Prop :=
  ∀ (i : Instr) (s t : State), s.cfg = t.cfg → s.pc = t.pc → agreeOnReads i s t →
    (∃ a : Word, exec i s = .next { s with pc := a } ∧ exec i t = .next { t with pc := a }) ∨
    (∃ f, exec i s = .fault f ∧ exec i t = .fault f) ∨
    (∃ r, exec i s = .refused r ∧ exec i t = .refused r)

/-- A compare branch does not see the lanes at or beyond NLanes(d). (40_cbranch_common.md R103; 40_cbranch_common.md
R108). -/
def Obligations.LanesBeyondTheCountDoNotMatter : Prop :=
  (∀ mk ∈ zeroForms, ∀ (ra : RegIdx) (value : Word) (s : State) (d : Descriptor) (v : RegValue),
    typeRule s.cfg none (s.typeOf ra) = .compare (some d) →
    (∀ i < nLanes s d, lane v d.width i = lane (s.value ra) d.width i) →
    ∃ a : Word, exec (mk ra value) s = .next { s with pc := a } ∧
      exec (mk ra value) (s.setValue ra v) = .next { s.setValue ra v with pc := a }) ∧
  (∀ mk ∈ regForms, ∀ (rb ra r : RegIdx) (value : Word) (s : State) (d : Descriptor) (v : RegValue),
    typeRule s.cfg (some (s.typeOf rb)) (s.typeOf ra) = .compare (some d) →
    (∀ i < nLanes s d, lane v d.width i = lane (s.value r) d.width i) →
    ∃ a : Word, exec (mk rb ra value) s = .next { s with pc := a } ∧
      exec (mk rb ra value) (s.setValue r v) = .next { s.setValue r v with pc := a })

/-- A type field of 0xf, and the fourth field of group 3, take no part. (44_cbranch_type.md R171; 30_encoding.md R64).
-/
def Obligations.ExcludedRegistersAreNotTested : Prop :=
  (∀ p ∈ anyGroupForms ++ allGroupForms, ∀ (value : Word) (t : TypeWord) (s : State) (r : RegIdx) (ty : TypeCode),
    ((r, 0xf#4) ∈ (groupRegs p.2).zip [t.a, t.b, t.c, t.d] ∨ r ∉ groupRegs p.2) →
    ∃ a : Word, exec (p.1 value t) s = .next { s with pc := a } ∧
      exec (p.1 value t) (s.setType r ty) = .next { s.setType r ty with pc := a }) ∧
  (∀ p ∈ anyGroupForms ++ allGroupForms, p.2 = 3 → ∀ (value : Word) (t : TypeWord) (d : Nibble) (s : State),
    exec (p.1 value { t with d := d }) s = exec (p.1 value t) s) ∧
  (∀ (i : Instr) (s : State), exec (i.canonical s.cfg.maskPlacement) s = exec i s)

/-- With nothing to test an any form is not taken and an all form is taken. (44_cbranch_type.md R172;
40_cbranch_common.md R105). The source does not say what a branch does with nothing to test: the outcome is a choice
(R105, R172, D7; log 8). -/
def Obligations.EmptyTestsBranchAsAllAndNotAsAny : Prop :=
  (∀ (value : Word) (t : TypeWord) (s : State), t.a = 0xf → t.b = 0xf → t.c = 0xf →
    (∀ p ∈ anyGroupForms, (p.2 = 3 ∨ t.d = 0xf) → exec (p.1 value t) s = .next (s.notTaken 6)) ∧
    (∀ p ∈ allGroupForms, (p.2 = 3 ∨ t.d = 0xf) → exec (p.1 value t) s = .next (s.taken 6 value))) ∧
  (∀ (rb ra : RegIdx) (value : Word) (s : State) (d : Descriptor), nLanes s d = 0 →
    (typeRule s.cfg none (s.typeOf ra) = .compare (some d) →
      (∀ mk ∈ zeroForms.take 6, exec (mk ra value) s = .next (s.notTaken 4)) ∧
      (∀ mk ∈ zeroForms.drop 6, exec (mk ra value) s = .next (s.taken 4 value))) ∧
    (typeRule s.cfg (some (s.typeOf rb)) (s.typeOf ra) = .compare (some d) →
      (∀ mk ∈ regForms.take 6, exec (mk rb ra value) s = .next (s.notTaken 4)) ∧
      (∀ mk ∈ regForms.drop 6, exec (mk rb ra value) s = .next (s.taken 4 value))))

/-- A parcel is read from two bytes, the second at the next address modulo 2^32, and is missing when either byte is.
(20_memory.md R33; 20_memory.md R34; 20_memory.md R30). -/
def Obligations.ReadParcelAssemblesTwoBytes : Prop :=
  ∀ (s : State) (a : Word),
    (s.readParcel a = none ↔ s.mem.read a = none ∨ s.mem.read (a + 1#32) = none) ∧
    ∀ lo hi, s.mem.read a = some lo → s.mem.read (a + 1#32) = some hi →
      (s.cfg.byteOrder = .little → s.readParcel a = some (BitVec.ofNat 16 (lo.toNat + 256 * hi.toNat))) ∧
      (s.cfg.byteOrder = .big → s.readParcel a = some (BitVec.ofNat 16 (hi.toNat + 256 * lo.toNat)))
end

