-- ==== Sys2Proof/Laws/Encoding.lean ====
section
/-! SUPPORT. The fields of code words and type words that the encoder wrote. -/

namespace Sys2Proof

/-- Four nibbles as a number, the first the most significant (R51). -/
theorem codeWord_toNat (d c b a : Nibble) :
    (codeWord d c b a).toNat = 0x1000 * d.toNat + 0x100 * c.toNat + 0x10 * b.toNat + a.toNat := by
  unfold codeWord
  rw [BitVec.toNat_append, BitVec.toNat_append, BitVec.toNat_append]
  rw [← Nat.shiftLeft_add_eq_or_of_lt a.isLt, ← Nat.shiftLeft_add_eq_or_of_lt b.isLt,
    ← Nat.shiftLeft_add_eq_or_of_lt c.isLt]
  simp only [Nat.shiftLeft_eq]
  omega

theorem fieldA_toNat (w : Parcel) : (fieldA w).toNat = w.toNat % 0x10 := by simp [fieldA]
theorem fieldB_toNat (w : Parcel) : (fieldB w).toNat = w.toNat / 0x10 % 0x10 := by
  simp [fieldB, Nat.shiftRight_eq_div_pow]
theorem fieldC_toNat (w : Parcel) : (fieldC w).toNat = w.toNat / 0x100 % 0x10 := by
  simp [fieldC, Nat.shiftRight_eq_div_pow]
theorem fieldD_toNat (w : Parcel) : (fieldD w).toNat = w.toNat / 0x1000 := by
  have := w.isLt
  simp [fieldD, Nat.shiftRight_eq_div_pow]
  omega

@[simp] theorem fieldA_codeWord (d c b a : Nibble) : fieldA (codeWord d c b a) = a := by
  apply BitVec.eq_of_toNat_eq
  rw [fieldA_toNat, codeWord_toNat]
  omega

@[simp] theorem fieldB_codeWord (d c b a : Nibble) : fieldB (codeWord d c b a) = b := by
  apply BitVec.eq_of_toNat_eq
  rw [fieldB_toNat, codeWord_toNat]
  omega

@[simp] theorem fieldC_codeWord (d c b a : Nibble) : fieldC (codeWord d c b a) = c := by
  apply BitVec.eq_of_toNat_eq
  rw [fieldC_toNat, codeWord_toNat]
  omega

@[simp] theorem fieldD_codeWord (d c b a : Nibble) : fieldD (codeWord d c b a) = d := by
  apply BitVec.eq_of_toNat_eq
  rw [fieldD_toNat, codeWord_toNat]
  omega

/-- A code word is put together from its fields (R51). -/
theorem codeWord_fields (w : Parcel) : codeWord (fieldD w) (fieldC w) (fieldB w) (fieldA w) = w := by
  apply BitVec.eq_of_toNat_eq
  rw [codeWord_toNat, fieldA_toNat, fieldB_toNat, fieldC_toNat, fieldD_toNat]
  omega

theorem regField_toNat (r : RegIdx) : (regField r).toNat = r.val := by
  have := r.isLt
  simp [regField]
  omega

/-- A register field names the register it was written for (R55). -/
@[simp] theorem reg?_regField (r : RegIdx) : reg? (regField r) = some r := by
  simp [reg?, regField_toNat]

/-- The register that a field names is written as that field. -/
theorem regField_of_reg? {n : Nibble} {r : RegIdx} (h : reg? n = some r) : regField r = n := by
  unfold reg? at h
  split at h
  · cases h
    apply BitVec.eq_of_toNat_eq
    rw [regField_toNat]
  · cases h

@[simp] theorem reg?_marker : reg? 0xf#4 = none := rfl

theorem reg?_eq_none {n : Nibble} (h : reg? n = none) : n = 0xf#4 := by
  unfold reg? at h
  split at h
  · cases h
  · have := n.isLt
    apply BitVec.eq_of_toNat_eq
    simp
    omega

theorem regField_ne_marker (r : RegIdx) : regField r ≠ 0xf#4 := by
  intro h
  have := reg?_regField r
  rw [h, reg?_marker] at this
  cases this

/-- A bit position that has a code decodes from it (R60). -/
theorem bitPos_bitCode (c : Fin 32) (h : testableBit c = true) : bitPos (bitCode c) = some c := by
  revert c
  decide

/-- The bit position a code selects is encoded by it, and has a row (R60). -/
theorem bitCode_bitPos (n : Nibble) (c : Fin 32) (h : bitPos n = some c) : bitCode c = n ∧ testableBit c = true := by
  revert n c
  decide

theorem typeParcel_toNat (t : TypeWord) :
    (typeParcel t).toNat = 0x1000 * t.d.toNat + 0x100 * t.c.toNat + 0x10 * t.b.toNat + t.a.toNat :=
  codeWord_toNat t.d t.c t.b t.a

/-- The type fields of a type word that was written (R53). -/
@[simp] theorem typeWord_typeParcel (t : TypeWord) : typeWord (typeParcel t) = t := by
  have hA := fieldA_codeWord t.d t.c t.b t.a
  have hB := fieldB_codeWord t.d t.c t.b t.a
  have hC := fieldC_codeWord t.d t.c t.b t.a
  have hD := fieldD_codeWord t.d t.c t.b t.a
  cases t
  simp_all [typeWord, typeParcel, codeWord, fieldA, fieldB, fieldC, fieldD]

/-- A type word is put together from its fields (R53). -/
@[simp] theorem typeParcel_typeWord (f : Parcel) : typeParcel (typeWord f) = f := codeWord_fields f

end Sys2Proof
end

