-- ==== Sys2Proof/Laws/State.lean ====
section
/-! SUPPORT. One lemma per field and update of the state, and what the accessors read after an update. -/

namespace Sys2Proof.Machine

variable (s : State) (a len v : Word) (r r' : RegIdx) (rv : RegValue) (t : TypeCode)

@[simp] theorem setPc_pc : (s.setPc a).pc = a := rfl
@[simp] theorem setPc_cfg : (s.setPc a).cfg = s.cfg := rfl
@[simp] theorem setPc_x : (s.setPc a).x = s.x := rfl
@[simp] theorem setPc_xt : (s.setPc a).xt = s.xt := rfl
@[simp] theorem setPc_vend : (s.setPc a).vend = s.vend := rfl
@[simp] theorem setPc_vstart : (s.setPc a).vstart = s.vstart := rfl
@[simp] theorem setPc_mem : (s.setPc a).mem = s.mem := rfl
@[simp] theorem setPc_record : (s.setPc a).record = s.record := rfl

@[simp] theorem setValue_cfg : (s.setValue r rv).cfg = s.cfg := rfl
@[simp] theorem setValue_xt : (s.setValue r rv).xt = s.xt := rfl
@[simp] theorem setValue_pc : (s.setValue r rv).pc = s.pc := rfl
@[simp] theorem setValue_vend : (s.setValue r rv).vend = s.vend := rfl
@[simp] theorem setValue_vstart : (s.setValue r rv).vstart = s.vstart := rfl
@[simp] theorem setValue_mem : (s.setValue r rv).mem = s.mem := rfl
@[simp] theorem setValue_record : (s.setValue r rv).record = s.record := rfl

@[simp] theorem setType_cfg : (s.setType r t).cfg = s.cfg := rfl
@[simp] theorem setType_x : (s.setType r t).x = s.x := rfl
@[simp] theorem setType_pc : (s.setType r t).pc = s.pc := rfl
@[simp] theorem setType_vend : (s.setType r t).vend = s.vend := rfl
@[simp] theorem setType_vstart : (s.setType r t).vstart = s.vstart := rfl
@[simp] theorem setType_mem : (s.setType r t).mem = s.mem := rfl
@[simp] theorem setType_record : (s.setType r t).record = s.record := rfl

@[simp] theorem setPc_value : (s.setPc a).value r = s.value r := rfl
@[simp] theorem setPc_typeOf : (s.setPc a).typeOf r = s.typeOf r := rfl
@[simp] theorem setValue_typeOf : (s.setValue r rv).typeOf r' = s.typeOf r' := rfl
@[simp] theorem setType_value : (s.setType r t).value r' = s.value r' := rfl

/-- What `x[i]` reads after `x[j] <- v` (R6). -/
theorem setValue_value : (s.setValue r rv).value r' = if r = r' then rv else s.value r' := by
  simp [State.setValue, State.value, Vector.get_eq_getElem, Vector.getElem_set, Fin.ext_iff]

/-- What `xt[i]` reads after `xt[j] <- t` (R6). -/
theorem setType_typeOf : (s.setType r t).typeOf r' = if r = r' then t else s.typeOf r' := by
  simp [State.setType, State.typeOf, Vector.get_eq_getElem, Vector.getElem_set, Fin.ext_iff]

theorem taken_eq : s.taken len v = { s with pc := s.branchBase len + v } := rfl
theorem notTaken_eq : s.notTaken len = { s with pc := s.pc + len } := rfl

/-- The two answers of `BRANCH_BASE` (R101). -/
theorem branchBase_cases :
    (s.cfg.branchBase = .thisInsn ∧ s.branchBase len = s.pc) ∨
    (s.cfg.branchBase = .nextInsn ∧ s.branchBase len = s.pc + len) := by
  unfold State.branchBase
  cases s.cfg.branchBase <;> simp

@[simp] theorem settle_next (t : State) : s.settle (.next t) = t := rfl
@[simp] theorem settle_fault (f : Fault) : s.settle (.fault f) = { s with record := recordOf (.fault f) } := rfl
@[simp] theorem settle_refused (q : Refusal) : s.settle (.refused q) = { s with record := some (.refused q) } := rfl

end Sys2Proof.Machine
end

