-- ==== Sys2Proof/Laws/Memory.lean ====
section
/-! SUPPORT. The laws of memory: what a read gives after a write, and that every memory operation keeps the canonical
form. -/

namespace Sys2Proof.Machine

/-- The byte that is read after one is listed (R6). -/
theorem lookup_insert (m : Memory) (a a' : Nat) (b : Byte) :
    (m.insert a b).lookup a' = if a' = a then some b else m.lookup a' := by
  induction m with
  | nil => simp [Memory.insert, Memory.lookup, eq_comm]
  | cons c m ih =>
    obtain ⟨k, v⟩ := c
    unfold Memory.insert
    split_ifs with h1 h2 <;> simp only [Memory.lookup, ih] <;> split_ifs <;> first | rfl | omega

/-- A read after a write of one byte. -/
theorem read_write (m : Memory) (a a' : Word) (b : Byte) :
    (m.write a b).read a' = if a' = a then some b else m.read a' := by
  simp [Memory.read, Memory.write, lookup_insert, BitVec.toNat_inj]

/-- Listing a byte keeps the addresses rising. -/
theorem insert_rises (m : Memory) (p : Option Nat) (a : Nat) (b : Byte)
    (hp : ∀ q, p = some q → q < a) (h : Memory.risesFrom p m = true) : Memory.risesFrom p (m.insert a b) = true := by
  induction m generalizing p with
  | nil => cases p <;> simp_all [Memory.insert, Memory.risesFrom]
  | cons c m ih =>
    obtain ⟨k, v⟩ := c
    have hk : Memory.risesFrom (some k) m = true := by cases p <;> simp_all [Memory.risesFrom]
    unfold Memory.insert
    split_ifs with h1 h2
    · cases p <;> simp_all [Memory.risesFrom]
    · cases p <;> simp_all [Memory.risesFrom]
    · have hi := ih (some k) (by rintro q ⟨⟩; omega) hk
      cases p <;> simp_all [Memory.risesFrom]

/-- Listing a byte adds no other address. -/
theorem all_insert (m : Memory) (a : Nat) (b : Byte) (f : Host.Cell → Bool) (ha : f (a, b) = true)
    (h : m.all f = true) : (m.insert a b).all f = true := by
  induction m with
  | nil => simpa [Memory.insert] using ha
  | cons c m ih =>
    obtain ⟨k, v⟩ := c
    simp only [List.all_cons, Bool.and_eq_true] at h
    unfold Memory.insert
    split_ifs <;> simp [ha, h, ih]

/-- A write of one byte keeps the canonical form. -/
theorem write_wf (m : Memory) (a : Word) (b : Byte) (h : m.wf = true) : (m.write a b).wf = true := by
  simp only [Memory.wf, Bool.and_eq_true] at h ⊢
  exact ⟨insert_rises m none _ b (by simp) h.1, all_insert m _ b _ (by simpa using a.isLt) h.2⟩

/-- A write of one parcel keeps the canonical form. -/
theorem writeParcel_wf (m : Memory) (o : ByteOrder) (a : Word) (p : Parcel) (h : m.wf = true) :
    (m.writeParcel o a p).wf = true :=
  write_wf _ _ _ (write_wf _ _ _ h)

/-- A write of parcels keeps the canonical form. -/
theorem writeParcels_wf (o : ByteOrder) (m : Memory) (a : Word) (ps : List Parcel) (h : m.wf = true) :
    (Memory.writeParcels o m a ps).wf = true := by
  induction ps generalizing m a with
  | nil => exact h
  | cons p ps ih => exact ih _ _ (writeParcel_wf m o a p h)

/-- Memory at reset has the canonical form. -/
theorem reset_mem_wf : State.reset.mem.wf = true := rfl

/-- Placing an instruction keeps memory's canonical form. -/
theorem withFetchWord_mem_wf (s : State) (nbits w : Nat) (h : s.mem.wf = true) :
    (s.withFetchWord nbits w).mem.wf = true :=
  writeParcels_wf _ _ _ _ h

/-- Two bytes as a number, the first the most significant (R33). -/
theorem bytes_append_toNat (a b : Byte) : (a ++ b : Parcel).toNat = 2 ^ 8 * a.toNat + b.toNat := by
  rw [BitVec.toNat_append, ← Nat.shiftLeft_add_eq_or_of_lt b.isLt, Nat.shiftLeft_eq, Nat.mul_comm]

/-- A parcel that was split is put together again, in either byte order (R33). -/
@[simp] theorem joinBytes_splitParcel (o : ByteOrder) (p : Parcel) :
    joinBytes o (splitParcel o p).1 (splitParcel o p).2 = p := by
  have hp := p.isLt
  cases o <;>
  · apply BitVec.eq_of_toNat_eq
    simp only [joinBytes, splitParcel, bytes_append_toNat, BitVec.extractLsb'_toNat, Nat.shiftRight_eq_div_pow]
    omega

/-- A parcel is read from its two bytes (R34). -/
theorem readParcel_of_bytes (s : State) (a : Word) (lo hi : Byte) (hlo : s.mem.read a = some lo)
    (hhi : s.mem.read (a + 1#32) = some hi) : s.readParcel a = some (joinBytes s.cfg.byteOrder lo hi) := by
  simp [State.readParcel, hlo, hhi]

end Sys2Proof.Machine
end

