-- ==== Sys2Proof/Laws/Ops.lean ====
section
/-! SUPPORT. One lemma for each shared operation: everything it can do. -/

namespace Sys2Proof.Machine

/-! ### Aggregation -/

/-- `Any` (R105): some element meets the condition. -/
theorem aggregate_any_iff {α : Type} (xs : List α) (p : α → Bool) :
    aggregate .any xs p = true ↔ ∃ x ∈ xs, p x = true := by
  simp [aggregate]

/-- `All` (R105): every element meets the condition. -/
theorem aggregate_all_iff {α : Type} (xs : List α) (p : α → Bool) :
    aggregate .all xs p = true ↔ ∀ x ∈ xs, p x = true := by
  simp [aggregate]

/-- `All(n, not P) = not Any(n, P)` (R110). -/
theorem aggregate_all_not {α : Type} (xs : List α) (p q : α → Bool) (h : ∀ x ∈ xs, q x = !p x) :
    aggregate .all xs q = !aggregate .any xs p := by
  induction xs with
  | nil => rfl
  | cons x xs ih =>
    simp only [aggregate, List.all_cons, List.any_cons, Bool.not_or] at ih ⊢
    rw [h x (by simp), ih fun y hy => h y (by simp [hy])]

/-- Aggregation looks at its condition on the listed elements only. -/
theorem aggregate_congr {α : Type} (agg : Aggregation) (xs : List α) (p q : α → Bool) (h : ∀ x ∈ xs, p x = q x) :
    aggregate agg xs p = aggregate agg xs q := by
  induction xs with
  | nil => cases agg <;> rfl
  | cons x xs ih =>
    have ih := ih fun y hy => h y (by simp [hy])
    have hx := h x (by simp)
    cases agg <;> simp_all [aggregate]

/-- `Any` over nothing is false, `All` over nothing is true (R105, R172). -/
theorem aggregate_nil {α : Type} (agg : Aggregation) (p : α → Bool) :
    aggregate agg [] p = match agg with | .any => false | .all => true := by
  cases agg <;> rfl

/-! ### The branch action -/

/-- A branch completes, and what it answers (R101). -/
theorem branchIf_eq (c : Bool) (len v : Word) (s : State) :
    branchIf c len v s = .next (s.setPc (if c then s.branchBase len + v else s.pc + len)) := by
  cases c <;> rfl

/-! ### Lanes -/

/-- A lane that lies in its register value is the slice of R108. -/
theorem lane_of_fits {v : RegValue} {w i : Nat} (h : w * i + w ≤ v.width) :
    lane v w i = BitVec.ofNat w (v.bits >>> (w * i)) :=
  if_pos h

/-- A lane that does not lie in its register value is a free value (log 36). -/
theorem lane_of_not_fits {v : RegValue} {w i : Nat} (h : ¬w * i + w ≤ v.width) :
    lane v w i = Config.freeLane w i (v.scalar :: v.upper) :=
  if_neg h

/-- Where the bound of R103 has a value, the cut is the lesser of the two. -/
theorem cutToBound_of_pos {c : Config} {w : Nat} (h : 0 < w) (n : Nat) :
    cutToBound c w n = min n (c.vlenBits / w) :=
  if_neg (Nat.ne_of_gt h)

/-- At width 0 nothing is cut (log 38). -/
@[simp] theorem cutToBound_zero (c : Config) (n : Nat) : cutToBound c 0 n = n := rfl

/-- `ACTIVE_LANES` is never above the bound that the spec sets (R5, R103), where that bound has a value (log 38). -/
theorem activeLanes_le (c : Config) {d : Descriptor} (h : 0 < d.width) (vend : Nat) :
    activeLanes c d vend ≤ c.vlenBits / d.width := by
  unfold activeLanes
  rw [cutToBound_of_pos h]
  exact Nat.min_le_right _ _

/-! ### Type handling and the compares -/

/-- Everything a compare-with-zero branch can do (R102, R120). -/
theorem compareZero_cases (agg : Aggregation) (rel : ZeroRel) (ra : RegIdx) (v : Word) (s : State) :
    (∃ d, typeRule s.cfg none (s.typeOf ra) = .compare (some d) ∧
      compareZero agg rel ra v s =
        branchIf (aggregate agg (List.range (nLanes s d)) (zeroLane agg rel d (s.value ra))) 4 v s) ∨
    (typeRule s.cfg none (s.typeOf ra) = .compare none ∧
      compareZero agg rel ra v s = .refused (.unknownType s.pc (s.typeOf ra))) ∨
    (typeRule s.cfg none (s.typeOf ra) = .excType ∧
      compareZero agg rel ra v s = .fault (.excType s.pc (zeroWord agg rel ra))) := by
  unfold compareZero typeCheck1 raiseExcType
  rcases typeRule s.cfg none (s.typeOf ra) with (_ | d) | _
  · exact .inr (.inl ⟨rfl, rfl⟩)
  · exact .inl ⟨d, rfl, rfl⟩
  · exact .inr (.inr ⟨rfl, rfl⟩)

/-- Everything a register-register branch can do (R102, R140). -/
theorem compareReg_cases (agg : Aggregation) (rel : RegRel) (rb ra : RegIdx) (v : Word) (s : State) :
    (∃ d, typeRule s.cfg (some (s.typeOf rb)) (s.typeOf ra) = .compare (some d) ∧
      compareReg agg rel rb ra v s =
        branchIf (aggregate agg (List.range (nLanes s d)) (regLane agg rel d (s.value rb) (s.value ra))) 4 v s) ∨
    (typeRule s.cfg (some (s.typeOf rb)) (s.typeOf ra) = .compare none ∧
      compareReg agg rel rb ra v s = .refused (.unknownType s.pc (s.typeOf ra))) ∨
    (typeRule s.cfg (some (s.typeOf rb)) (s.typeOf ra) = .excType ∧
      compareReg agg rel rb ra v s = .fault (.excType s.pc (regWord agg rel rb ra))) := by
  unfold compareReg typeCheck2 raiseExcType
  rcases typeRule s.cfg (some (s.typeOf rb)) (s.typeOf ra) with (_ | d) | _
  · exact .inr (.inl ⟨rfl, rfl⟩)
  · exact .inl ⟨d, rfl, rfl⟩
  · exact .inr (.inr ⟨rfl, rfl⟩)

/-- What `exec` does, in one of three ways: complete as a branch of the instruction's length and offset (where type
handling, if there is any, answers a descriptor), raise `exc_type` with its code word, or refuse a type without
descriptor. -/
def ExecShape (i : Instr) (s : State) (o : Result) : Prop :=
  ((∀ left right, handledTypes i s = some (left, right) → ∃ d, typeRule s.cfg left right = .compare (some d)) ∧
    ∃ c, o = branchIf c (BitVec.ofNat 32 i.length) i.value s) ∨
  (∃ left right w0, handledTypes i s = some (left, right) ∧ typeRule s.cfg left right = .excType ∧
    i.parcels.head? = some w0 ∧ o = .fault (.excType s.pc w0)) ∨
  (∃ left right, handledTypes i s = some (left, right) ∧ typeRule s.cfg left right = .compare none ∧
    o = .refused (.unknownType s.pc right))

theorem compareZero_shape (agg : Aggregation) (rel : ZeroRel) (ra : RegIdx) (v : Word) (s : State) (i : Instr)
    (hl : i.length = 4) (hv : i.value = v) (ht : handledTypes i s = some (none, s.typeOf ra))
    (hw : i.parcels.head? = some (zeroWord agg rel ra)) : ExecShape i s (compareZero agg rel ra v s) := by
  unfold ExecShape
  rw [hl, hv]
  rcases compareZero_cases agg rel ra v s with ⟨d, hr, h⟩ | ⟨hr, h⟩ | ⟨hr, h⟩ <;> rw [h]
  · refine .inl ⟨fun _ _ ht' => ?_, _, rfl⟩
    cases ht.symm.trans ht'
    exact ⟨d, hr⟩
  · exact .inr (.inr ⟨_, _, ht, hr, rfl⟩)
  · exact .inr (.inl ⟨_, _, _, ht, hr, hw, rfl⟩)

theorem compareReg_shape (agg : Aggregation) (rel : RegRel) (rb ra : RegIdx) (v : Word) (s : State) (i : Instr)
    (hl : i.length = 4) (hv : i.value = v) (ht : handledTypes i s = some (some (s.typeOf rb), s.typeOf ra))
    (hw : i.parcels.head? = some (regWord agg rel rb ra)) : ExecShape i s (compareReg agg rel rb ra v s) := by
  unfold ExecShape
  rw [hl, hv]
  rcases compareReg_cases agg rel rb ra v s with ⟨d, hr, h⟩ | ⟨hr, h⟩ | ⟨hr, h⟩ <;> rw [h]
  · refine .inl ⟨fun _ _ ht' => ?_, _, rfl⟩
    cases ht.symm.trans ht'
    exact ⟨d, hr⟩
  · exact .inr (.inr ⟨_, _, ht, hr, rfl⟩)
  · exact .inr (.inl ⟨_, _, _, ht, hr, hw, rfl⟩)

/-- Everything `exec` can do. -/
theorem exec_shape (i : Instr) (s : State) : ExecShape i s (exec i s) := by
  cases i
  case cbBit1 => exact .inl ⟨fun _ _ => nofun, _, rfl⟩
  case cbBit0 => exact .inl ⟨fun _ _ => nofun, _, rfl⟩
  case cbTmask => exact .inl ⟨fun _ _ => nofun, _, rfl⟩
  all_goals
    first
    | exact compareZero_shape _ _ _ _ _ _ rfl rfl rfl rfl
    | exact compareReg_shape _ _ _ _ _ _ _ rfl rfl rfl rfl
    | exact .inl ⟨fun _ _ => nofun, _, rfl⟩

/-! ### The end of a run, the fetch, the step -/

/-- A state that a step can run from has not ended (R100). -/
theorem ended?_eq_none_iff (s : State) : s.ended? = none ↔ Alive s := by
  unfold State.ended? Alive
  cases s.record <;> simp

/-- A run ends before the step at a recorded outcome or at a halt address (R27, R227). -/
theorem ended?_eq_some (s : State) (o : Result) (h : s.ended? = some o) :
    (∃ r, s.record = some r ∧ o = r.outcome) ∨
    (s.record = none ∧ s.pc ∈ s.cfg.haltSet ∧ o = .fault (.halted s.pc)) := by
  unfold State.ended? at h
  cases hr : s.record with
  | some r => simp_all
  | none => simp_all

/-- Everything a fetch can do (R35, R100): refuse an odd `pc` or an undefined word, be stuck, or give the instruction
that the parcels from `pc` on decode to. -/
theorem fetch_cases (s : State) :
    (s.pc.getLsbD 0 = true ∧ fetch s = .refused (.misalignedPc s.pc)) ∨
    (s.pc.getLsbD 0 = false ∧
      ((decode (s.parcelsAt 3 s.pc) = .error .missingParcel ∧ fetch s = .fault (.stuck s.pc)) ∨
      (∃ w0, (decode (s.parcelsAt 3 s.pc) = .error (.unknown w0) ∨
          decode (s.parcelsAt 3 s.pc) = .error (.notInChapter w0)) ∧
        fetch s = .refused (.unknownEncoding s.pc w0)) ∨
      (∃ i rest, decode (s.parcelsAt 3 s.pc) = .ok (i, rest) ∧ fetch s = .next i))) := by
  unfold fetch
  cases s.pc.getLsbD 0
  · refine .inr ⟨rfl, ?_⟩
    rcases decode (s.parcelsAt 3 s.pc) with (w0 | w0 | _) | ⟨i, rest⟩
    · exact .inr (.inl ⟨w0, .inl rfl, rfl⟩)
    · exact .inr (.inl ⟨w0, .inr rfl, rfl⟩)
    · exact .inl ⟨rfl, rfl⟩
    · exact .inr (.inr ⟨i, rest, rfl, rfl⟩)
  · exact .inl ⟨rfl, rfl⟩

/-- A step that answers a next state fetched an instruction and executed it, from a state that had not ended. -/
theorem step_next_inv {s t : State} (h : step s = .next t) :
    Alive s ∧ s.pc.getLsbD 0 = false ∧
      ∃ i rest, decode (s.parcelsAt 3 s.pc) = .ok (i, rest) ∧ exec i s = .next t := by
  unfold step at h
  cases he : s.ended? with
  | some o =>
    rw [he] at h
    rcases ended?_eq_some s o he with ⟨r, _, rfl⟩ | ⟨_, _, rfl⟩
    · cases r <;> simp [EndRecord.outcome] at h
    · simp at h
  | none =>
    rw [he] at h
    rcases fetch_cases s with ⟨_, hf⟩ | ⟨hp, ⟨_, hf⟩ | ⟨w0, _, hf⟩ | ⟨i, rest, hd, hf⟩⟩ <;> rw [hf] at h
    · simp at h
    · simp at h
    · simp at h
    · exact ⟨(ended?_eq_none_iff s).1 he, hp, i, rest, hd, h⟩

/-- From a state that has not ended, a step is the fetch followed by `exec` (R100). -/
theorem step_alive {s : State} (h : Alive s) :
    step s = match fetch s with | .next i => exec i s | .fault f => .fault f | .refused r => .refused r := by
  have he := (ended?_eq_none_iff s).2 h
  cases hf : fetch s <;> simp only [step, he, hf]

/-! ### Runs -/

/-- A run that completes its steps completed the first one. -/
theorem run_next_inv (M : Host.Core) (k : Nat) (s t : M.State) (h : M.run (k + 1) s = .next t) :
    ∃ u, M.step s = .next u ∧ M.run k u = .next t := by
  unfold Host.Core.run at h
  split at h
  · exact ⟨_, by assumption, h⟩
  · cases h
  · cases h

/-- A run of this machine that completes its steps completed the first one. -/
theorem core_run_inv {k : Nat} {s t : State} (h : Sys2Proof.core.run (k + 1) s = .next t) :
    ∃ u : State, step s = .next u ∧ Sys2Proof.core.run k u = .next t :=
  run_next_inv Sys2Proof.core k s t h

end Sys2Proof.Machine
end

