-- ==== Sys2Proof/Laws/PerInstr.lean ====
section
/-! SUPPORT. The family `EncodedLength`: the encoding of an instruction has as many bytes as its length (R50, R59, R61). -/

namespace Sys2Proof.Laws.EncodedLength

/-- A well-formed instruction is encoded in as many parcels as its length asks, a 48-bit one in three; an instruction
without an encoding is refused. -/
def Statement (i : Instr) : Prop :=
  (i.wf = true → ∃ ps, encode i = some ps ∧ 2 * ps.length = i.length) ∧ (i.wf = false → encode i = none)

/-- One parcel list for all: what an encoder answers (R57). -/
theorem of_parcels (i : Instr) (h : 2 * i.parcels.length = i.length) : Statement i := by
  unfold Statement encode
  cases i.wf
  · simp
  · simpa using h

theorem cbAnyEqz (ra : RegIdx) (value : Word) : Statement (.cbAnyEqz ra value) := of_parcels _ rfl
theorem cbAnyNez (ra : RegIdx) (value : Word) : Statement (.cbAnyNez ra value) := of_parcels _ rfl
theorem cbAnyLtz (ra : RegIdx) (value : Word) : Statement (.cbAnyLtz ra value) := of_parcels _ rfl
theorem cbAnyGez (ra : RegIdx) (value : Word) : Statement (.cbAnyGez ra value) := of_parcels _ rfl
theorem cbAnyGtz (ra : RegIdx) (value : Word) : Statement (.cbAnyGtz ra value) := of_parcels _ rfl
theorem cbAnyLez (ra : RegIdx) (value : Word) : Statement (.cbAnyLez ra value) := of_parcels _ rfl
theorem cbAllEqz (ra : RegIdx) (value : Word) : Statement (.cbAllEqz ra value) := of_parcels _ rfl
theorem cbAllNez (ra : RegIdx) (value : Word) : Statement (.cbAllNez ra value) := of_parcels _ rfl
theorem cbAllLtz (ra : RegIdx) (value : Word) : Statement (.cbAllLtz ra value) := of_parcels _ rfl
theorem cbAllGez (ra : RegIdx) (value : Word) : Statement (.cbAllGez ra value) := of_parcels _ rfl
theorem cbAllGtz (ra : RegIdx) (value : Word) : Statement (.cbAllGtz ra value) := of_parcels _ rfl
theorem cbAllLez (ra : RegIdx) (value : Word) : Statement (.cbAllLez ra value) := of_parcels _ rfl
theorem cbAnyEq (rb ra : RegIdx) (value : Word) : Statement (.cbAnyEq rb ra value) := of_parcels _ rfl
theorem cbAnyNe (rb ra : RegIdx) (value : Word) : Statement (.cbAnyNe rb ra value) := of_parcels _ rfl
theorem cbAnyLts (rb ra : RegIdx) (value : Word) : Statement (.cbAnyLts rb ra value) := of_parcels _ rfl
theorem cbAnyGes (rb ra : RegIdx) (value : Word) : Statement (.cbAnyGes rb ra value) := of_parcels _ rfl
theorem cbAnyLtu (rb ra : RegIdx) (value : Word) : Statement (.cbAnyLtu rb ra value) := of_parcels _ rfl
theorem cbAnyGeu (rb ra : RegIdx) (value : Word) : Statement (.cbAnyGeu rb ra value) := of_parcels _ rfl
theorem cbAllEq (rb ra : RegIdx) (value : Word) : Statement (.cbAllEq rb ra value) := of_parcels _ rfl
theorem cbAllNe (rb ra : RegIdx) (value : Word) : Statement (.cbAllNe rb ra value) := of_parcels _ rfl
theorem cbAllLts (rb ra : RegIdx) (value : Word) : Statement (.cbAllLts rb ra value) := of_parcels _ rfl
theorem cbAllGes (rb ra : RegIdx) (value : Word) : Statement (.cbAllGes rb ra value) := of_parcels _ rfl
theorem cbAllLtu (rb ra : RegIdx) (value : Word) : Statement (.cbAllLtu rb ra value) := of_parcels _ rfl
theorem cbAllGeu (rb ra : RegIdx) (value : Word) : Statement (.cbAllGeu rb ra value) := of_parcels _ rfl
theorem cbBit1 (ra : RegIdx) (c : Fin 32) (value : Word) : Statement (.cbBit1 ra c value) := of_parcels _ rfl
theorem cbBit0 (rb : RegIdx) (c : Fin 32) (value : Word) : Statement (.cbBit0 rb c value) := of_parcels _ rfl
theorem cbTanyNeG0 (value : Word) (types : TypeWord) : Statement (.cbTanyNeG0 value types) := of_parcels _ rfl
theorem cbTallNeG0 (value : Word) (types : TypeWord) : Statement (.cbTallNeG0 value types) := of_parcels _ rfl
theorem cbTmask (rd : RegIdx) (value : Word) (fieldF : Parcel) : Statement (.cbTmask rd value fieldF) := of_parcels _ rfl
theorem cbTanyNeG1 (value : Word) (types : TypeWord) : Statement (.cbTanyNeG1 value types) := of_parcels _ rfl
theorem cbTallNeG1 (value : Word) (types : TypeWord) : Statement (.cbTallNeG1 value types) := of_parcels _ rfl
theorem cbTanyNeG2 (value : Word) (types : TypeWord) : Statement (.cbTanyNeG2 value types) := of_parcels _ rfl
theorem cbTallNeG2 (value : Word) (types : TypeWord) : Statement (.cbTallNeG2 value types) := of_parcels _ rfl
theorem cbTanyNeG3 (value : Word) (types : TypeWord) : Statement (.cbTanyNeG3 value types) := of_parcels _ rfl
theorem cbTallNeG3 (value : Word) (types : TypeWord) : Statement (.cbTallNeG3 value types) := of_parcels _ rfl
theorem cbTanyEqG0 (value : Word) (types : TypeWord) : Statement (.cbTanyEqG0 value types) := of_parcels _ rfl
theorem cbTallEqG0 (value : Word) (types : TypeWord) : Statement (.cbTallEqG0 value types) := of_parcels _ rfl
theorem cbTanyEqG1 (value : Word) (types : TypeWord) : Statement (.cbTanyEqG1 value types) := of_parcels _ rfl
theorem cbTallEqG1 (value : Word) (types : TypeWord) : Statement (.cbTallEqG1 value types) := of_parcels _ rfl
theorem cbTanyEqG2 (value : Word) (types : TypeWord) : Statement (.cbTanyEqG2 value types) := of_parcels _ rfl
theorem cbTallEqG2 (value : Word) (types : TypeWord) : Statement (.cbTallEqG2 value types) := of_parcels _ rfl
theorem cbTanyEqG3 (value : Word) (types : TypeWord) : Statement (.cbTanyEqG3 value types) := of_parcels _ rfl
theorem cbTallEqG3 (value : Word) (types : TypeWord) : Statement (.cbTallEqG3 value types) := of_parcels _ rfl

end Sys2Proof.Laws.EncodedLength
end

