-- ==== Sys2Proof/Tests/Slice0.lean ====
section
/-! SUPPORT. The model's own tests: expected results are the spec's, from the worked examples of its rules and from
spec/95_test_vectors.md; and for each statement with hypotheses, states and operands that meet them. -/

namespace Sys2Proof.Tests

open Sys2Proof.Machine

/-! ### Helpers -/

/-- What the decoder reads from parcels, where none are left over. -/
def reads (ps : List Parcel) : Option Instr :=
  match decode ps with
  | .ok (i, []) => some i
  | _ => none

/-- The decoder answers Unknown for the word. -/
def isUnknown (w : Parcel) : Bool :=
  match decode [w, 0, 0] with
  | .error (.unknown v) => v == w
  | _ => false

/-- The decoder answers NotInChapter for the word. -/
def isNotInChapter (w : Parcel) : Bool :=
  match decode [w, 0, 0] with
  | .error (.notInChapter v) => v == w
  | _ => false

/-- The configuration of the vectors: 0x1 is `T_I32`, 0x2 `T_V16` (two lanes at `VEND` 0, none at `VEND` 1), 0x3
`T_F32`, the other codes have no descriptor. -/
def config : Config :=
  { resetConfig with
    typeTable := #v[none, some .tI32, some .tV16, some .tF32, none, none, none, none, none, none, none, none, none, none,
      none]
    laneCounts := [{ desc := .tV16, vend := 0, lanes := 2 }, { desc := .tV16, vend := 1, lanes := 0 }] }

/-- A launch state with parcels at `pc`. -/
def launch (pc : Word) (ps : List Parcel) : State :=
  { State.reset with cfg := config, pc := pc, mem := Memory.writeParcels .little [] pc ps }

/-- `xt[r] <- t`, `x[r] <- v`. -/
def put (r : RegIdx) (t : TypeCode) (v : Word) (s : State) : State :=
  (s.setType r t).setValue r { scalar := v, upper := [] }

/-- The types of four registers from `r` on. -/
def putTypes (r0 r1 r2 r3 : RegIdx) (t0 t1 t2 t3 : TypeCode) (s : State) : State :=
  (((s.setType r0 t0).setType r1 t1).setType r2 t2).setType r3 t3

/-- The step completes and changes `pc` only, to `a`. -/
def goesTo (s : State) (a : Word) : Bool :=
  match step s with
  | .next t => decide (t = { s with pc := a })
  | _ => false

/-- The step ends in the fault, and the run keeps the state, with the record. -/
def faultsWith (s : State) (f : Fault) : Bool :=
  match step s with
  | .fault g => decide (g = f) && decide (advance s = { s with record := recordOf (.fault f) })
  | _ => false

/-- The step ends in the refusal, and the run keeps the state, with the record. -/
def refusesWith (s : State) (r : Refusal) : Bool :=
  match step s with
  | .refused q => decide (q = r) && decide (advance s = { s with record := some (.refused r) })
  | _ => false

/-! ### Well-formedness (R57, R60): each check refuses an ill-formed term -/

/-- 95 section 2.1: `VALUE` 3 is odd. -/
theorem test_wf_refuses_odd_offset : (Instr.cbAnyEqz 3 3).wf = false ∧ encode (.cbAnyEqz 3 3) = none := by decide

/-- 95 section 2.1: `VALUE` 65536 is above the range. -/
theorem test_wf_refuses_offset_above : (Instr.cbTmask 3 65536 0).wf = false ∧ encode (.cbTmask 3 65536 0) = none := by
  decide

/-- 95 section 2.1: `VALUE` -65538 is below the range. -/
theorem test_wf_refuses_offset_below : (Instr.cbAllGeu 4 5 (-65538)).wf = false := by decide

/-- R60: bit positions 10 and 29 have no code. -/
theorem test_wf_refuses_bit_position :
    (Instr.cbBit1 2 10 16).wf = false ∧ (Instr.cbBit0 2 29 16).wf = false ∧ encode (.cbBit1 2 10 16) = none := by decide

/-- R57, R60: the ends of the range of offsets and the last bit position are accepted. -/
theorem test_wf_accepts_bounds :
    (Instr.cbAnyEqz 3 65534).wf = true ∧ (Instr.cbAnyEqz 3 (-65536)).wf = true ∧ (Instr.cbBit1 14 31 0).wf = true := by
  decide

/-! ### Encodings, written out from the spec's encoding of each instruction -/

/-- R121 to R132: `0xf0B3 0x0010`, register 3, offset 16. -/
theorem test_decode_compare_zero :
    reads [0xf003, 0x0010] = some (.cbAnyEqz 3 16) ∧
    reads [0xf013, 0x0010] = some (.cbAnyNez 3 16) ∧
    reads [0xf023, 0x0010] = some (.cbAnyLtz 3 16) ∧
    reads [0xf033, 0x0010] = some (.cbAnyGez 3 16) ∧
    reads [0xf043, 0x0010] = some (.cbAnyGtz 3 16) ∧
    reads [0xf053, 0x0010] = some (.cbAnyLez 3 16) ∧
    reads [0xf083, 0x0010] = some (.cbAllEqz 3 16) ∧
    reads [0xf093, 0x0010] = some (.cbAllNez 3 16) ∧
    reads [0xf0a3, 0x0010] = some (.cbAllLtz 3 16) ∧
    reads [0xf0b3, 0x0010] = some (.cbAllGez 3 16) ∧
    reads [0xf0c3, 0x0010] = some (.cbAllGtz 3 16) ∧
    reads [0xf0d3, 0x0010] = some (.cbAllLez 3 16) := by decide

/-- R141 to R152: `0xfC12 0xfff9`, left register 1, right register 2, offset -8. -/
theorem test_decode_compare_reg :
    reads [0xf112, 0xfff9] = some (.cbAnyEq 1 2 (-8)) ∧
    reads [0xf212, 0xfff9] = some (.cbAnyNe 1 2 (-8)) ∧
    reads [0xf312, 0xfff9] = some (.cbAnyLts 1 2 (-8)) ∧
    reads [0xf412, 0xfff9] = some (.cbAnyGes 1 2 (-8)) ∧
    reads [0xf512, 0xfff9] = some (.cbAnyLtu 1 2 (-8)) ∧
    reads [0xf612, 0xfff9] = some (.cbAnyGeu 1 2 (-8)) ∧
    reads [0xf912, 0xfff9] = some (.cbAllEq 1 2 (-8)) ∧
    reads [0xfa12, 0xfff9] = some (.cbAllNe 1 2 (-8)) ∧
    reads [0xfb12, 0xfff9] = some (.cbAllLts 1 2 (-8)) ∧
    reads [0xfc12, 0xfff9] = some (.cbAllGes 1 2 (-8)) ∧
    reads [0xfd12, 0xfff9] = some (.cbAllLtu 1 2 (-8)) ∧
    reads [0xfe12, 0xfff9] = some (.cbAllGeu 1 2 (-8)) := by decide

/-- R161, R162 and 95 section 2.2: a register field of 0xf wins over the compare patterns. -/
theorem test_decode_bit :
    reads [0xfef4, 0x0010] = some (.cbBit1 4 31 16) ∧
    reads [0xfaf2, 0xfffd] = some (.cbBit1 2 14 (-4)) ∧
    reads [0xf1f2, 0x0002] = some (.cbBit1 2 1 2) ∧
    reads [0xf00f, 0x0008] = some (.cbBit0 0 0 8) ∧
    reads [0xfd3f, 0x0001] = some (.cbBit0 3 30 (-65536)) ∧
    reads [0xf06f, 0x0000] = some (.cbBit0 6 0 0) ∧
    reads [0xf01f, 0x0000] = some (.cbBit0 1 0 0) := by decide

/-- R173, R174, R176 to R189: `0xD01f` and `0xD02f` with the type word `0x3f21`. -/
theorem test_decode_group :
    reads [0x001f, 0x0020, 0x3f21] = some (.cbTanyNeG0 32 { a := 1, b := 2, c := 0xf, d := 3 }) ∧
    reads [0x002f, 0x0020, 0x3f21] = some (.cbTallNeG0 32 { a := 1, b := 2, c := 0xf, d := 3 }) ∧
    reads [0x101f, 0x0020, 0x3f21] = some (.cbTanyNeG1 32 { a := 1, b := 2, c := 0xf, d := 3 }) ∧
    reads [0x102f, 0x0020, 0x3f21] = some (.cbTallNeG1 32 { a := 1, b := 2, c := 0xf, d := 3 }) ∧
    reads [0x201f, 0x0020, 0x3f21] = some (.cbTanyNeG2 32 { a := 1, b := 2, c := 0xf, d := 3 }) ∧
    reads [0x202f, 0x0020, 0x3f21] = some (.cbTallNeG2 32 { a := 1, b := 2, c := 0xf, d := 3 }) ∧
    reads [0x301f, 0x0020, 0x3f21] = some (.cbTanyNeG3 32 { a := 1, b := 2, c := 0xf, d := 3 }) ∧
    reads [0x302f, 0x0020, 0x3f21] = some (.cbTallNeG3 32 { a := 1, b := 2, c := 0xf, d := 3 }) ∧
    reads [0x401f, 0x0020, 0x3f21] = some (.cbTanyEqG0 32 { a := 1, b := 2, c := 0xf, d := 3 }) ∧
    reads [0x402f, 0x0020, 0x3f21] = some (.cbTallEqG0 32 { a := 1, b := 2, c := 0xf, d := 3 }) ∧
    reads [0x501f, 0x0020, 0x3f21] = some (.cbTanyEqG1 32 { a := 1, b := 2, c := 0xf, d := 3 }) ∧
    reads [0x502f, 0x0020, 0x3f21] = some (.cbTallEqG1 32 { a := 1, b := 2, c := 0xf, d := 3 }) ∧
    reads [0x601f, 0x0020, 0x3f21] = some (.cbTanyEqG2 32 { a := 1, b := 2, c := 0xf, d := 3 }) ∧
    reads [0x602f, 0x0020, 0x3f21] = some (.cbTallEqG2 32 { a := 1, b := 2, c := 0xf, d := 3 }) ∧
    reads [0x701f, 0x0020, 0x3f21] = some (.cbTanyEqG3 32 { a := 1, b := 2, c := 0xf, d := 3 }) ∧
    reads [0x702f, 0x0020, 0x3f21] = some (.cbTallEqG3 32 { a := 1, b := 2, c := 0xf, d := 3 }) := by decide

/-- R175: `0x.03f`. -/
theorem test_decode_mask :
    reads [0x403f, 0x0020, 0x0006] = some (.cbTmask 4 32 0x0006) ∧
    reads [0xe03f, 0x0000, 0x8000] = some (.cbTmask 14 0 0x8000) := by decide

/-- 95 section 2.2: the undefined words of the chapter's patterns. -/
theorem test_decode_unknown :
    [0xf063, 0xf0e1, 0xf712, 0xf812, 0xff12, 0xfff2, 0xff2f, 0xf0ff, 0xfaff, 0x801f, 0xe02f].all isUnknown = true := by
  decide

/-- 95 section 2.2: words of other chapters. -/
theorem test_decode_not_in_chapter : [0x004f, 0x011f, 0x0000, 0x1234].all isNotInChapter = true := by decide

/-- 95 section 2.1: `FIELD_E` and its offset, the slips of R57 included. -/
theorem test_offsets :
    brOffset 0x7fff = (-32770) ∧ brOffset 0x8000 = 32768 ∧ brOffset 0x0001 = (-65536) ∧ brOffset 0xfffe = 65534 ∧
    encodeOffset (-12) = 0xfff5 ∧ encodeOffset (-65534) = 0x0003 ∧ encodeOffset 65536 = 0x0000 ∧
    encodeOffset 2147483646 = 0xfffe := by decide

/-- R33 and program P2 of 95: the bytes `1f 00 1c 00 21 ff` of `CB_TANY_NE_G0`, and the same parcels in the other
order. -/
theorem test_bytes :
    bytesOfParcels .little [0x001f, 0x001c, 0xff21] = [0x1f, 0x00, 0x1c, 0x00, 0x21, 0xff] ∧
    bytesOfParcels .big [0x001f, 0x001c, 0xff21] = [0x00, 0x1f, 0x00, 0x1c, 0xff, 0x21] ∧
    decodeTableWord 48 0xff21001c001f = some (.cbTanyNeG0 28 { a := 1, b := 2, c := 0xf, d := 0xf }) ∧
    decodeTableWord 16 0xf003 = some (.cbAnyEqz 3 0) := by decide

/-! ### One step of each instruction -/

/-- 95 section 2.3, a 32-bit scalar. -/
theorem test_cb_any_eqz_scalar :
    goesTo (put 3 1 0x00000000 (launch 0x1000 [0xf003, 0x0010])) 0x1010 = true := by decide

/-- 95 section 2.3, two lanes of 16 bits. -/
theorem test_cb_any_eqz_vector :
    goesTo (put 3 2 0x00010000 (launch 0x1000 [0xf003, 0x0010])) 0x1010 = true := by decide

/-- 95 section 2.3, a 32-bit scalar. -/
theorem test_cb_any_nez_scalar :
    goesTo (put 3 1 0x80000000 (launch 0x1000 [0xf013, 0x0010])) 0x1010 = true := by decide

/-- 95 section 2.3, two lanes of 16 bits. -/
theorem test_cb_any_nez_vector :
    goesTo (put 3 2 0x00010000 (launch 0x1000 [0xf013, 0x0010])) 0x1010 = true := by decide

/-- 95 section 2.3, a 32-bit scalar. -/
theorem test_cb_any_ltz_scalar :
    goesTo (put 3 1 0x00000000 (launch 0x1000 [0xf023, 0x0010])) 0x1004 = true := by decide

/-- 95 section 2.3, two lanes of 16 bits. -/
theorem test_cb_any_ltz_vector :
    goesTo (put 3 2 0x80000001 (launch 0x1000 [0xf023, 0x0010])) 0x1010 = true := by decide

/-- 95 section 2.3, a 32-bit scalar. -/
theorem test_cb_any_gez_scalar :
    goesTo (put 3 1 0x00000000 (launch 0x1000 [0xf033, 0x0010])) 0x1010 = true := by decide

/-- 95 section 2.3, two lanes of 16 bits. -/
theorem test_cb_any_gez_vector :
    goesTo (put 3 2 0x80000001 (launch 0x1000 [0xf033, 0x0010])) 0x1010 = true := by decide

/-- 95 section 2.3, a 32-bit scalar. -/
theorem test_cb_any_gtz_scalar :
    goesTo (put 3 1 0x00000000 (launch 0x1000 [0xf043, 0x0010])) 0x1004 = true := by decide

/-- 95 section 2.3, two lanes of 16 bits. -/
theorem test_cb_any_gtz_vector :
    goesTo (put 3 2 0x80000001 (launch 0x1000 [0xf043, 0x0010])) 0x1010 = true := by decide

/-- 95 section 2.3, a 32-bit scalar. -/
theorem test_cb_any_lez_scalar :
    goesTo (put 3 1 0x00000000 (launch 0x1000 [0xf053, 0x0010])) 0x1010 = true := by decide

/-- 95 section 2.3, two lanes of 16 bits. -/
theorem test_cb_any_lez_vector :
    goesTo (put 3 2 0x80000001 (launch 0x1000 [0xf053, 0x0010])) 0x1010 = true := by decide

/-- 95 section 2.3, a 32-bit scalar. -/
theorem test_cb_all_eqz_scalar :
    goesTo (put 3 1 0x00008000 (launch 0x1000 [0xf083, 0x0010])) 0x1004 = true := by decide

/-- 95 section 2.3, two lanes of 16 bits. -/
theorem test_cb_all_eqz_vector :
    goesTo (put 3 2 0x00010000 (launch 0x1000 [0xf083, 0x0010])) 0x1004 = true := by decide

/-- 95 section 2.3, a 32-bit scalar. -/
theorem test_cb_all_nez_scalar :
    goesTo (put 3 1 0x00000000 (launch 0x1000 [0xf093, 0x0010])) 0x1004 = true := by decide

/-- 95 section 2.3, two lanes of 16 bits. -/
theorem test_cb_all_nez_vector :
    goesTo (put 3 2 0x00010000 (launch 0x1000 [0xf093, 0x0010])) 0x1004 = true := by decide

/-- 95 section 2.3, a 32-bit scalar. -/
theorem test_cb_all_ltz_scalar :
    goesTo (put 3 1 0x80000000 (launch 0x1000 [0xf0a3, 0x0010])) 0x1010 = true := by decide

/-- 95 section 2.3, two lanes of 16 bits. -/
theorem test_cb_all_ltz_vector :
    goesTo (put 3 2 0x80000001 (launch 0x1000 [0xf0a3, 0x0010])) 0x1004 = true := by decide

/-- 95 section 2.3, a 32-bit scalar. -/
theorem test_cb_all_gez_scalar :
    goesTo (put 3 1 0x80000000 (launch 0x1000 [0xf0b3, 0x0010])) 0x1004 = true := by decide

/-- 95 section 2.3, two lanes of 16 bits. -/
theorem test_cb_all_gez_vector :
    goesTo (put 3 2 0x80000001 (launch 0x1000 [0xf0b3, 0x0010])) 0x1004 = true := by decide

/-- 95 section 2.3, a 32-bit scalar. -/
theorem test_cb_all_gtz_scalar :
    goesTo (put 3 1 0x7fffffff (launch 0x1000 [0xf0c3, 0x0010])) 0x1010 = true := by decide

/-- 95 section 2.3, two lanes of 16 bits. -/
theorem test_cb_all_gtz_vector :
    goesTo (put 3 2 0x80000001 (launch 0x1000 [0xf0c3, 0x0010])) 0x1004 = true := by decide

/-- 95 section 2.3, a 32-bit scalar. -/
theorem test_cb_all_lez_scalar :
    goesTo (put 3 1 0xffffffff (launch 0x1000 [0xf0d3, 0x0010])) 0x1010 = true := by decide

/-- 95 section 2.3, two lanes of 16 bits. -/
theorem test_cb_all_lez_vector :
    goesTo (put 3 2 0x80000001 (launch 0x1000 [0xf0d3, 0x0010])) 0x1004 = true := by decide

/-- 95 section 2.4, 32-bit scalars. -/
theorem test_cb_any_eq_scalar :
    goesTo (put 1 1 0x80000000 (put 2 1 0x80000000 (launch 0x1000 [0xf112, 0xfff9]))) 0x0ff8 = true := by decide

/-- 95 section 2.4, two lanes of 16 bits. -/
theorem test_cb_any_eq_vector :
    goesTo (put 1 2 0x0001ffff (put 2 2 0x00010001 (launch 0x1000 [0xf112, 0xfff9]))) 0x0ff8 = true := by decide

/-- 95 section 2.4, 32-bit scalars. -/
theorem test_cb_any_ne_scalar :
    goesTo (put 1 1 0x00000001 (put 2 1 0x00000002 (launch 0x1000 [0xf212, 0xfff9]))) 0x0ff8 = true := by decide

/-- 95 section 2.4, two lanes of 16 bits. -/
theorem test_cb_any_ne_vector :
    goesTo (put 1 2 0x0001ffff (put 2 2 0x00010001 (launch 0x1000 [0xf212, 0xfff9]))) 0x0ff8 = true := by decide

/-- 95 section 2.4, 32-bit scalars. -/
theorem test_cb_any_lts_scalar :
    goesTo (put 1 1 0xffffffff (put 2 1 0x00000001 (launch 0x1000 [0xf312, 0xfff9]))) 0x0ff8 = true := by decide

/-- 95 section 2.4, two lanes of 16 bits. -/
theorem test_cb_any_lts_vector :
    goesTo (put 1 2 0x00050005 (put 2 2 0x00060004 (launch 0x1000 [0xf312, 0xfff9]))) 0x0ff8 = true := by decide

/-- 95 section 2.4, 32-bit scalars. -/
theorem test_cb_any_ges_scalar :
    goesTo (put 1 1 0xffffffff (put 2 1 0x00000001 (launch 0x1000 [0xf412, 0xfff9]))) 0x1004 = true := by decide

/-- 95 section 2.4, two lanes of 16 bits. -/
theorem test_cb_any_ges_vector :
    goesTo (put 1 2 0x00050005 (put 2 2 0x00060004 (launch 0x1000 [0xf412, 0xfff9]))) 0x0ff8 = true := by decide

/-- 95 section 2.4, 32-bit scalars. -/
theorem test_cb_any_ltu_scalar :
    goesTo (put 1 1 0xffffffff (put 2 1 0x00000001 (launch 0x1000 [0xf512, 0xfff9]))) 0x1004 = true := by decide

/-- 95 section 2.4, two lanes of 16 bits. -/
theorem test_cb_any_ltu_vector :
    goesTo (put 1 2 0x00018000 (put 2 2 0x00027fff (launch 0x1000 [0xf512, 0xfff9]))) 0x0ff8 = true := by decide

/-- 95 section 2.4, 32-bit scalars. -/
theorem test_cb_any_geu_scalar :
    goesTo (put 1 1 0xffffffff (put 2 1 0x00000001 (launch 0x1000 [0xf612, 0xfff9]))) 0x0ff8 = true := by decide

/-- 95 section 2.4, two lanes of 16 bits. -/
theorem test_cb_any_geu_vector :
    goesTo (put 1 2 0x00018000 (put 2 2 0x00027fff (launch 0x1000 [0xf612, 0xfff9]))) 0x0ff8 = true := by decide

/-- 95 section 2.4, 32-bit scalars. -/
theorem test_cb_all_eq_scalar :
    goesTo (put 1 1 0xffffffff (put 2 1 0xfffffffe (launch 0x1000 [0xf912, 0xfff9]))) 0x1004 = true := by decide

/-- 95 section 2.4, two lanes of 16 bits. -/
theorem test_cb_all_eq_vector :
    goesTo (put 1 2 0x0001ffff (put 2 2 0x00010001 (launch 0x1000 [0xf912, 0xfff9]))) 0x1004 = true := by decide

/-- 95 section 2.4, 32-bit scalars. -/
theorem test_cb_all_ne_scalar :
    goesTo (put 1 1 0x00000000 (put 2 1 0x00000000 (launch 0x1000 [0xfa12, 0xfff9]))) 0x1004 = true := by decide

/-- 95 section 2.4, two lanes of 16 bits. -/
theorem test_cb_all_ne_vector :
    goesTo (put 1 2 0x0001ffff (put 2 2 0x00010001 (launch 0x1000 [0xfa12, 0xfff9]))) 0x1004 = true := by decide

/-- 95 section 2.4, 32-bit scalars. -/
theorem test_cb_all_lts_scalar :
    goesTo (put 1 1 0x7fffffff (put 2 1 0x80000000 (launch 0x1000 [0xfb12, 0xfff9]))) 0x1004 = true := by decide

/-- 95 section 2.4, two lanes of 16 bits. -/
theorem test_cb_all_lts_vector :
    goesTo (put 1 2 0x00050005 (put 2 2 0x00060004 (launch 0x1000 [0xfb12, 0xfff9]))) 0x1004 = true := by decide

/-- 95 section 2.4, 32-bit scalars. -/
theorem test_cb_all_ges_scalar :
    goesTo (put 1 1 0x7fffffff (put 2 1 0x80000000 (launch 0x1000 [0xfc12, 0xfff9]))) 0x0ff8 = true := by decide

/-- 95 section 2.4, two lanes of 16 bits. -/
theorem test_cb_all_ges_vector :
    goesTo (put 1 2 0x00050005 (put 2 2 0x00060004 (launch 0x1000 [0xfc12, 0xfff9]))) 0x1004 = true := by decide

/-- 95 section 2.4, 32-bit scalars. -/
theorem test_cb_all_ltu_scalar :
    goesTo (put 1 1 0x7fffffff (put 2 1 0x80000000 (launch 0x1000 [0xfd12, 0xfff9]))) 0x0ff8 = true := by decide

/-- 95 section 2.4, two lanes of 16 bits. -/
theorem test_cb_all_ltu_vector :
    goesTo (put 1 2 0x00018000 (put 2 2 0x00027fff (launch 0x1000 [0xfd12, 0xfff9]))) 0x1004 = true := by decide

/-- 95 section 2.4, 32-bit scalars. -/
theorem test_cb_all_geu_scalar :
    goesTo (put 1 1 0x7fffffff (put 2 1 0x80000000 (launch 0x1000 [0xfe12, 0xfff9]))) 0x1004 = true := by decide

/-- 95 section 2.4, two lanes of 16 bits. -/
theorem test_cb_all_geu_vector :
    goesTo (put 1 2 0x00018000 (put 2 2 0x00027fff (launch 0x1000 [0xfe12, 0xfff9]))) 0x1004 = true := by decide

/-- R161, whatever the type. -/
theorem test_cb_bit1_taken : goesTo (put 4 7 0x80000000 (launch 0x1000 [0xfef4, 0x0010])) 0x1010 = true := by decide

/-- R161. -/
theorem test_cb_bit1_not_taken :
    goesTo (put 2 1 0xffffbfff (launch 0x2000 [0xfaf2, 0xfffd])) 0x2004 = true := by decide

/-- R162. -/
theorem test_cb_bit0_taken : goesTo (put 3 7 0x80000000 (launch 0x20000 [0xfd3f, 0x0001])) 0x10000 = true := by decide

/-- R162. -/
theorem test_cb_bit0_not_taken :
    goesTo (put 0 1 0x00000001 (launch 0x1000 [0xf00f, 0x0008])) 0x1004 = true := by decide

/-- Worked example of its rule: the second type differs, the third register is excluded. -/
theorem test_cb_tany_ne_g0_mixed :
    goesTo (putTypes 0 1 2 3 1 5 9 3 (launch 0x2000 [0x001f, 0x0020, 0x3f21])) 0x2020 = true := by decide

/-- Worked example of its rule: all tested types as expected. -/
theorem test_cb_tany_ne_g0_equal :
    goesTo (putTypes 0 1 2 3 1 2 9 3 (launch 0x2000 [0x001f, 0x0020, 0x3f21])) 0x2006 = true := by decide

/-- Worked example of its rule: the second type differs, the third register is excluded. -/
theorem test_cb_tall_ne_g0_mixed :
    goesTo (putTypes 0 1 2 3 1 5 9 3 (launch 0x2000 [0x002f, 0x0020, 0x3f21])) 0x2006 = true := by decide

/-- Worked example of its rule: every tested type differs. -/
theorem test_cb_tall_ne_g0_different :
    goesTo (putTypes 0 1 2 3 4 5 9 6 (launch 0x2000 [0x002f, 0x0020, 0x3f21])) 0x2020 = true := by decide

/-- Worked example of its rule: the second type differs, the third register is excluded. -/
theorem test_cb_tany_ne_g1_mixed :
    goesTo (putTypes 4 5 6 7 1 5 9 3 (launch 0x2000 [0x101f, 0x0020, 0x3f21])) 0x2020 = true := by decide

/-- Worked example of its rule: all tested types as expected. -/
theorem test_cb_tany_ne_g1_equal :
    goesTo (putTypes 4 5 6 7 1 2 9 3 (launch 0x2000 [0x101f, 0x0020, 0x3f21])) 0x2006 = true := by decide

/-- Worked example of its rule: the second type differs, the third register is excluded. -/
theorem test_cb_tall_ne_g1_mixed :
    goesTo (putTypes 4 5 6 7 1 5 9 3 (launch 0x2000 [0x102f, 0x0020, 0x3f21])) 0x2006 = true := by decide

/-- Worked example of its rule: every tested type differs. -/
theorem test_cb_tall_ne_g1_different :
    goesTo (putTypes 4 5 6 7 4 5 9 6 (launch 0x2000 [0x102f, 0x0020, 0x3f21])) 0x2020 = true := by decide

/-- Worked example of its rule: the second type differs, the third register is excluded. -/
theorem test_cb_tany_ne_g2_mixed :
    goesTo (putTypes 8 9 10 11 1 5 9 3 (launch 0x2000 [0x201f, 0x0020, 0x3f21])) 0x2020 = true := by decide

/-- Worked example of its rule: all tested types as expected. -/
theorem test_cb_tany_ne_g2_equal :
    goesTo (putTypes 8 9 10 11 1 2 9 3 (launch 0x2000 [0x201f, 0x0020, 0x3f21])) 0x2006 = true := by decide

/-- Worked example of its rule: the second type differs, the third register is excluded. -/
theorem test_cb_tall_ne_g2_mixed :
    goesTo (putTypes 8 9 10 11 1 5 9 3 (launch 0x2000 [0x202f, 0x0020, 0x3f21])) 0x2006 = true := by decide

/-- Worked example of its rule: every tested type differs. -/
theorem test_cb_tall_ne_g2_different :
    goesTo (putTypes 8 9 10 11 4 5 9 6 (launch 0x2000 [0x202f, 0x0020, 0x3f21])) 0x2020 = true := by decide

/-- Worked example of its rule: the second type differs, the third register is excluded. -/
theorem test_cb_tany_ne_g3_mixed :
    goesTo (putTypes 12 13 14 0 1 5 9 3 (launch 0x2000 [0x301f, 0x0020, 0x3f21])) 0x2020 = true := by decide

/-- Worked example of its rule: all tested types as expected. -/
theorem test_cb_tany_ne_g3_equal :
    goesTo (putTypes 12 13 14 0 1 2 9 3 (launch 0x2000 [0x301f, 0x0020, 0x3f21])) 0x2006 = true := by decide

/-- Worked example of its rule: the second type differs, the third register is excluded. -/
theorem test_cb_tall_ne_g3_mixed :
    goesTo (putTypes 12 13 14 0 1 5 9 3 (launch 0x2000 [0x302f, 0x0020, 0x3f21])) 0x2006 = true := by decide

/-- Worked example of its rule: every tested type differs. -/
theorem test_cb_tall_ne_g3_different :
    goesTo (putTypes 12 13 14 0 4 5 9 6 (launch 0x2000 [0x302f, 0x0020, 0x3f21])) 0x2020 = true := by decide

/-- Worked example of its rule: the second type differs, the third register is excluded. -/
theorem test_cb_tany_eq_g0_mixed :
    goesTo (putTypes 0 1 2 3 1 5 9 3 (launch 0x2000 [0x401f, 0x0020, 0x3f21])) 0x2020 = true := by decide

/-- Worked example of its rule: every tested type differs. -/
theorem test_cb_tany_eq_g0_different :
    goesTo (putTypes 0 1 2 3 4 5 9 6 (launch 0x2000 [0x401f, 0x0020, 0x3f21])) 0x2006 = true := by decide

/-- Worked example of its rule: the second type differs, the third register is excluded. -/
theorem test_cb_tall_eq_g0_mixed :
    goesTo (putTypes 0 1 2 3 1 5 9 3 (launch 0x2000 [0x402f, 0x0020, 0x3f21])) 0x2006 = true := by decide

/-- Worked example of its rule: all tested types as expected. -/
theorem test_cb_tall_eq_g0_equal :
    goesTo (putTypes 0 1 2 3 1 2 9 3 (launch 0x2000 [0x402f, 0x0020, 0x3f21])) 0x2020 = true := by decide

/-- Worked example of its rule: the second type differs, the third register is excluded. -/
theorem test_cb_tany_eq_g1_mixed :
    goesTo (putTypes 4 5 6 7 1 5 9 3 (launch 0x2000 [0x501f, 0x0020, 0x3f21])) 0x2020 = true := by decide

/-- Worked example of its rule: every tested type differs. -/
theorem test_cb_tany_eq_g1_different :
    goesTo (putTypes 4 5 6 7 4 5 9 6 (launch 0x2000 [0x501f, 0x0020, 0x3f21])) 0x2006 = true := by decide

/-- Worked example of its rule: the second type differs, the third register is excluded. -/
theorem test_cb_tall_eq_g1_mixed :
    goesTo (putTypes 4 5 6 7 1 5 9 3 (launch 0x2000 [0x502f, 0x0020, 0x3f21])) 0x2006 = true := by decide

/-- Worked example of its rule: all tested types as expected. -/
theorem test_cb_tall_eq_g1_equal :
    goesTo (putTypes 4 5 6 7 1 2 9 3 (launch 0x2000 [0x502f, 0x0020, 0x3f21])) 0x2020 = true := by decide

/-- Worked example of its rule: the second type differs, the third register is excluded. -/
theorem test_cb_tany_eq_g2_mixed :
    goesTo (putTypes 8 9 10 11 1 5 9 3 (launch 0x2000 [0x601f, 0x0020, 0x3f21])) 0x2020 = true := by decide

/-- Worked example of its rule: every tested type differs. -/
theorem test_cb_tany_eq_g2_different :
    goesTo (putTypes 8 9 10 11 4 5 9 6 (launch 0x2000 [0x601f, 0x0020, 0x3f21])) 0x2006 = true := by decide

/-- Worked example of its rule: the second type differs, the third register is excluded. -/
theorem test_cb_tall_eq_g2_mixed :
    goesTo (putTypes 8 9 10 11 1 5 9 3 (launch 0x2000 [0x602f, 0x0020, 0x3f21])) 0x2006 = true := by decide

/-- Worked example of its rule: all tested types as expected. -/
theorem test_cb_tall_eq_g2_equal :
    goesTo (putTypes 8 9 10 11 1 2 9 3 (launch 0x2000 [0x602f, 0x0020, 0x3f21])) 0x2020 = true := by decide

/-- Worked example of its rule: the second type differs, the third register is excluded. -/
theorem test_cb_tany_eq_g3_mixed :
    goesTo (putTypes 12 13 14 0 1 5 9 3 (launch 0x2000 [0x701f, 0x0020, 0x3f21])) 0x2020 = true := by decide

/-- Worked example of its rule: every tested type differs. -/
theorem test_cb_tany_eq_g3_different :
    goesTo (putTypes 12 13 14 0 4 5 9 6 (launch 0x2000 [0x701f, 0x0020, 0x3f21])) 0x2006 = true := by decide

/-- Worked example of its rule: the second type differs, the third register is excluded. -/
theorem test_cb_tall_eq_g3_mixed :
    goesTo (putTypes 12 13 14 0 1 5 9 3 (launch 0x2000 [0x702f, 0x0020, 0x3f21])) 0x2006 = true := by decide

/-- Worked example of its rule: all tested types as expected. -/
theorem test_cb_tall_eq_g3_equal :
    goesTo (putTypes 12 13 14 0 1 2 9 3 (launch 0x2000 [0x702f, 0x0020, 0x3f21])) 0x2020 = true := by decide

/-- 95 section 2.6: the mask bit of the type is 1. -/
theorem test_cb_tmask_allowed : goesTo (put 4 2 0 (launch 0x2000 [0x403f, 0x0020, 0x0006])) 0x2006 = true := by decide

/-- 95 section 2.6: under the other placement of the mask the bit of type 2 is bit 3, which is 0. -/
theorem test_cb_tmask_lsb1 :
    goesTo { put 4 2 0 (launch 0x2000 [0x403f, 0x0020, 0x0006]) with cfg := { config with maskPlacement := .lsb1 } }
      0x2020 = true := by decide

/-! ### The branch action, the fetch and the ends of a run -/

/-- 95 section 2.1: the target under `NextInsn`, wrapping at the top of the address space. -/
theorem test_next_insn_wraps :
    goesTo { put 0 0 0 (launch 0xfffffffc [0xf00f, 0x0008]) with cfg := { config with branchBase := .nextInsn } }
      0x00000008 = true := by decide

/-- R33: a big-endian machine runs the same parcels from bytes in the other order. -/
theorem test_big_endian :
    goesTo { put 3 1 0 (launch 0x1000 []) with
      cfg := { config with byteOrder := .big }
      mem := [(0x1000, 0xf0), (0x1001, 0x03), (0x1002, 0x00), (0x1003, 0x10)] } 0x1010 = true := by decide

/-- 95 section 2.3: with no active lane an any form is not taken. -/
theorem test_no_lanes_any : goesTo { put 3 2 0 (launch 0x1000 [0xf003, 0x0010]) with vend := 1 } 0x1004 = true := by
  decide

/-- 95 section 2.3: with no active lane an all form is taken. -/
theorem test_no_lanes_all :
    goesTo { put 3 2 1 (launch 0x1000 [0xf083, 0x0010]) with vend := 1 } 0x1010 = true := by decide

/-- 95 section 2.7: an odd `pc`. -/
theorem test_misaligned : refusesWith (launch 0x1001 [0xf003, 0x0010]) (.misalignedPc 0x1001) = true := by decide

/-- 95 section 2.7: an undefined word, and a word of another chapter. -/
theorem test_unknown_encoding :
    refusesWith (launch 0x1000 [0xf712]) (.unknownEncoding 0x1000 0xf712) = true ∧
    refusesWith (launch 0x1000 [0x0000]) (.unknownEncoding 0x1000 0x0000) = true := by decide

/-- 95 section 2.7: `xt[3] = 0x7`, `TYPE_TABLE(0x7) = none`. -/
theorem test_unknown_type :
    refusesWith (put 3 7 0 (launch 0x1000 [0xf003, 0x0010])) (.unknownType 0x1000 7) = true := by decide

/-- 95 section 2.7: types that differ, under the default rule. -/
theorem test_exc_type :
    faultsWith (put 1 1 0 (put 2 2 0 (launch 0x1000 [0xf112, 0xfff9]))) (.excType 0x1000 0xf112) = true := by decide

/-- 95 section 2.7: parcel 1 is missing, parcel 2 is missing. -/
theorem test_stuck :
    faultsWith (launch 0x1000 [0xf003]) (.stuck 0x1000) = true ∧
    faultsWith (launch 0x1000 [0x001f, 0x0020]) (.stuck 0x1000) = true ∧
    faultsWith State.reset (.stuck 0) = true := by decide

/-- R227: a halt address is not fetched. -/
theorem test_halt :
    faultsWith { launch 0x4000 [] with cfg := { config with haltSet := [0x4000] } } (.halted 0x4000) = true := by decide

/-- An instruction placed where the step fetches runs, right after reset. -/
theorem test_with_fetch_word :
    goesTo (State.reset.withFetchWord 16 0xf003) 0 = true ∧
    goesTo (State.reset.withFetchWord 48 0x00060020403f) 6 = true := by decide

/-- Memory is listed in one form, whatever the order of the writes. -/
theorem test_memory_form :
    Memory.write (Memory.write [] 5 1) 3 2 = [(3, 2), (5, 1)] ∧ Memory.write [(3, 2), (5, 1)] 5 7 = [(3, 2), (5, 7)] := by
  decide

/-! ### The hypotheses of the statements can be met -/

/-- A state whose step is `CB_ANY_EQZ` on `$r3`, a scalar. -/
def atZero : State := put 3 1 0 (launch 0x1000 [0xf003, 0x0010])

/-- A state whose step is `CB_ANY_LTS` on `$r1`, `$r2`, two lanes. -/
def atVector : State := put 1 2 0x0001ffff (put 2 2 0x00010001 (launch 0x1000 [0xf312, 0xfff9]))

/-- A state whose step raises `exc_type`. -/
def atExcType : State := put 1 1 0 (put 2 2 0 (launch 0x1000 [0xf112, 0xfff9]))

/-- The launch premises hold at `atZero`. -/
theorem test_atZero_launchOk : LaunchOk atZero :=
  ⟨rfl, rfl, fun _ _ _ _ h => activeLanes_le _ h _, by decide, by decide⟩

/-- The launch premises hold at `atVector`. -/
theorem test_atVector_launchOk : LaunchOk atVector :=
  ⟨rfl, rfl, fun _ _ _ _ h => activeLanes_le _ h _, by decide, by decide⟩

/-- R221 admits a state whose configuration has a vector type wider than the register: it has no lanes (R103). -/
def atWide : State :=
  { atZero with
    cfg := { config with
      typeTable := Vector.replicate 15 (some { shape := .vector, kind := .fixed, width := 64, sign := none }) } }

theorem test_wide_vector_launchOk :
    LaunchOk atWide ∧ nLanes atWide { shape := .vector, kind := .fixed, width := 64, sign := none } = 0 :=
  ⟨⟨rfl, rfl, fun _ _ _ _ h => activeLanes_le _ h _, by decide, by decide⟩, Nat.min_zero _⟩

/-- R105: with no lanes an any form under that type is not taken. -/
theorem test_wide_vector_any_not_taken : step atWide = .next (atWide.notTaken 4) := by
  have h : nLanes atWide { shape := .vector, kind := .fixed, width := 64, sign := none } = 0 :=
    test_wide_vector_launchOk.2
  show branchIf (aggregate .any (List.range (nLanes atWide _)) _) 4 16 atWide = _
  rw [h]
  rfl

theorem meets_DecodeAfterEncodeGivesTheInstruction :
    (Instr.cbAllGeu 14 0 (-65536)).wf = true ∧ (Instr.cbAnyEqz 0 65534).wf = true ∧ (Instr.cbBit1 0 0 0).wf = true ∧
    (Instr.cbBit0 14 31 2).wf = true ∧ (Instr.cbTmask 14 (-2) 0xffff).wf = true ∧
    (Instr.cbTallEqG3 65534 { a := 0xf, b := 0, c := 0xe, d := 0xf }).wf = true := by decide

theorem meets_EncodeAfterDecodeGivesTheParcels :
    decode [0xfe45, 0x0001, 0x7777] = .ok (.cbAllGeu 4 5 (-65536), [0x7777]) ∧
    decode [0xe03f, 0xfffe, 0xffff] = .ok (.cbTmask 14 65534 0xffff, []) := ⟨rfl, rfl⟩

theorem meets_OffsetRoundTripsExactlyWhenEncodable :
    brOffset (encodeOffset (Instr.cbAnyEqz 3 1).value) ≠ (Instr.cbAnyEqz 3 1).value ∧
    brOffset (encodeOffset (Instr.cbAnyEqz 3 65536).value) ≠ (Instr.cbAnyEqz 3 65536).value ∧
    brOffset (encodeOffset (Instr.cbAnyEqz 3 (-65538)).value) ≠ (Instr.cbAnyEqz 3 (-65538)).value := by decide

theorem meets_BitSelectorTable :
    bitPos 0x0 = some 0 ∧ bitPos 0x9 = some 9 ∧ bitPos 0xa = some 14 ∧ bitPos 0xc = some 16 ∧ bitPos 0xd = some 30 ∧
    bitPos 0xe = some 31 := by decide

/-- The digits of a word for each disjunct of Unknown, for NotInChapter, and for words that are neither. -/
theorem meets_UndefinedCodeWordsAreExactlyThese :
    [(0xf060, 0xf, 0x0, 0x6, 0x0), (0xf0ee, 0xf, 0x0, 0xe, 0xe), (0xf700, 0xf, 0x7, 0x0, 0x0),
      (0xffee, 0xf, 0xf, 0xe, 0xe), (0xfffe, 0xf, 0xf, 0xf, 0xe), (0xff0f, 0xf, 0xf, 0x0, 0xf),
      (0xffff, 0xf, 0xf, 0xf, 0xf), (0xf0ff, 0xf, 0x0, 0xf, 0xf), (0x801f, 0x8, 0x0, 0x1, 0xf),
      (0xe02f, 0xe, 0x0, 0x2, 0xf), (0x0000, 0x0, 0x0, 0x0, 0x0), (0xe03e, 0xe, 0x0, 0x3, 0xe),
      (0xf000, 0xf, 0x0, 0x0, 0x0), (0x701f, 0x7, 0x0, 0x1, 0xf)].all
      (fun (p : Parcel × Nat × Nat × Nat × Nat) =>
        p.1.toNat == 0x1000 * p.2.1 + 0x100 * p.2.2.1 + 0x10 * p.2.2.2.1 + p.2.2.2.2 && decide (p.2.1 < 16) &&
          decide (p.2.2.1 < 16) && decide (p.2.2.2.1 < 16) && decide (p.2.2.2.2 < 16)) = true := by decide

/-- Words of each of the 24 rows, on the last and on the first register. -/
theorem meets_CompareRowsDecode :
    [(0xf00e, 0xf000), (0xf01e, 0xf010), (0xf02e, 0xf020), (0xf03e, 0xf030), (0xf04e, 0xf040), (0xf05e, 0xf050),
      (0xf08e, 0xf080), (0xf09e, 0xf090), (0xf0ae, 0xf0a0), (0xf0be, 0xf0b0), (0xf0ce, 0xf0c0), (0xf0de, 0xf0d0)].all
      (fun (p : Parcel × Parcel) => p.1.toNat % 0x10 == (14 : RegIdx).val && p.1 &&& 0xfff0 == p.2) = true ∧
    [(0xf10e, 0xf100), (0xf20e, 0xf200), (0xf30e, 0xf300), (0xf40e, 0xf400), (0xf50e, 0xf500), (0xf60e, 0xf600),
      (0xf90e, 0xf900), (0xfa0e, 0xfa00), (0xfb0e, 0xfb00), (0xfc0e, 0xfc00), (0xfd0e, 0xfd00), (0xfe0e, 0xfe00)].all
      (fun (p : Parcel × Parcel) => p.1.toNat % 0x10 == (14 : RegIdx).val &&
        p.1.toNat / 0x10 % 0x10 == (0 : RegIdx).val && p.1 &&& 0xff00 == p.2) = true := by decide

theorem meets_BitTestRowsDecode :
    (0xfefe : Parcel).toNat / 0x100 % 0x10 = (0xe : Nibble).toNat ∧ bitPos 0xe = some 31 ∧
    (0xfefe : Parcel) &&& 0xf0f0 = 0xf0f0 ∧ (0xfefe : Parcel).toNat % 0x10 = (14 : RegIdx).val ∧
    (0xf00f : Parcel).toNat / 0x100 % 0x10 = (0x0 : Nibble).toNat ∧ bitPos 0x0 = some 0 ∧
    (0xf00f : Parcel) &&& 0xf00f = 0xf00f ∧ (0xf00f : Parcel).toNat / 0x10 % 0x10 = (0 : RegIdx).val := by decide

theorem meets_TypeTestRowsDecode :
    (0x3f21 : Parcel).toNat = 0x1000 * (3 : Nibble).toNat + 0x100 * (0xf : Nibble).toNat + 0x10 * (2 : Nibble).toNat +
      (1 : Nibble).toNat ∧
    (0x003f : Parcel) &&& 0x0fff = 0x003f ∧ (0x003f : Parcel).toNat / 0x1000 = (0 : RegIdx).val ∧
    (0xe03f : Parcel) &&& 0x0fff = 0x003f ∧ (0xe03f : Parcel).toNat / 0x1000 = (14 : RegIdx).val := by decide

theorem meets_DecodedLengthIsFourOrSixBytes :
    decode (0xf003 :: [0x0010, 0x1234]) = .ok (.cbAnyEqz 3 16, [0x1234]) ∧
    decode (0xe03f :: [0x0010, 0x0001]) = .ok (.cbTmask 14 16 1, []) := ⟨rfl, rfl⟩

theorem meets_StepRunsTheDecodedInstruction :
    Alive atZero ∧ atZero.pc.getLsbD 0 = false ∧ HoldsParcels atZero atZero.pc [0xf003, 0x0010] ∧
    decode [0xf003, 0x0010] = .ok (.cbAnyEqz 3 16, []) := by
  refine ⟨⟨rfl, by decide⟩, rfl, ?_, rfl⟩
  unfold HoldsParcels
  decide

/-- A state for each case of the fetch, the last address of the address space included. -/
theorem meets_FetchOutcomesInOrder :
    Alive (launch 0xffffffff []) ∧ (launch 0xffffffff []).pc.getLsbD 0 = true ∧
    Alive (launch 0xfffffffe []) ∧ (launch 0xfffffffe []).pc.getLsbD 0 = false ∧
    (launch 0xfffffffe []).readParcel 0xfffffffe = none ∧
    (launch 0xfffffffe [0xf712]).readParcel 0xfffffffe = some 0xf712 ∧
    decodeForm 0xf712 = .error (.unknown 0xf712) ∧
    decodeForm 0xf003 = .ok (.short (.cbAnyEqz 3)) ∧
    (launch 0xfffffffe [0xf003]).readParcel (0xfffffffe + 2#32) = none ∧
    (launch 0xfffffffe [0xf003, 0x0010]).readParcel (0xfffffffe + 2#32) = some 0x0010 ∧
    decodeForm 0x403f = .ok (.long (.cbTmask 4)) ∧
    (launch 0xfffffffe [0x403f, 0x0010]).readParcel (0xfffffffe + 4#32) = none ∧
    (launch 0xfffffffe [0x403f, 0x0010, 0x0001]).readParcel (0xfffffffe + 4#32) = some 0x0001 ∧
    step (launch 0x1000 []) = .fault (.stuck 0x1000) ∧ step (launch 0x1001 []) = .refused (.misalignedPc 0x1001) ∧
    step (launch 0x1000 [0xf712]) = .refused (.unknownEncoding 0x1000 0xf712) := by
  refine ⟨⟨rfl, by decide⟩, rfl, ⟨rfl, by decide⟩, rfl, ?_⟩
  exact ⟨by decide, by decide, rfl, rfl, by decide, by decide, rfl, by decide, by decide, rfl, rfl, rfl⟩

theorem meets_HaltAddressEndsTheRunBeforeTheFetch :
    (launch 0x4001 []).record = none ∧
    ({ launch 0x4001 [] with cfg := { config with haltSet := [0x4000, 0x4001] } } : State).pc ∈
      ({ launch 0x4001 [] with cfg := { config with haltSet := [0x4000, 0x4001] } } : State).cfg.haltSet := by decide

theorem meets_RecordedOutcomeStays :
    ({ atZero with record := some (.fault 0x1000 0xf112) } : State).record = some (.fault 0x1000 0xf112) ∧
    ({ atZero with record := some (.refused (.misalignedPc 1)) } : State).record = some (.refused (.misalignedPc 1)) ∧
    ({ atZero with record := some (.stuck 0) } : State).record = some (.stuck 0) := by decide

theorem meets_ExcTypeIsRecordedPrecisely :
    atExcType.record = none ∧ step atExcType = .fault (.excType 0x1000 0xf112) := ⟨rfl, rfl⟩

/-- A state whose step answers no next state, for each kind of end. -/
theorem meets_EveryEndLeavesTheStateAndEndsTheRun :
    (∀ t, step atExcType ≠ .next t) ∧ (∀ t, step State.reset ≠ .next t) ∧
    step (launch 0x1001 []) = .refused (.misalignedPc 0x1001) ∧ step State.reset = .fault (.stuck 0) ∧
    step { launch 0x4000 [] with cfg := { config with haltSet := [0x4000] } } = .fault (.halted 0x4000) ∧
    step atExcType = .fault (.excType 0x1000 0xf112) := by
  refine ⟨?_, ?_, rfl, rfl, rfl, rfl⟩
  · intro t h
    cases (rfl : step atExcType = .fault (.excType 0x1000 0xf112)).symm.trans h
  · intro t h
    cases (rfl : step State.reset = .fault (.stuck 0)).symm.trans h

/-- A state with no record for each refusal and each fault, and for each parcel that can be missing. -/
theorem meets_RefusalsAndFaultsAreTheSpecs :
    step (launch 0x1001 []) = .refused (.misalignedPc 0x1001) ∧
    step (launch 0x1000 [0xf712]) = .refused (.unknownEncoding 0x1000 0xf712) ∧
    step (put 3 7 0 (launch 0x1000 [0xf003, 0x0010])) = .refused (.unknownType 0x1000 7) ∧
    step atExcType = .fault (.excType 0x1000 0xf112) ∧ step (launch 0xfffffffe []) = .fault (.stuck 0xfffffffe) ∧
    step (launch 0xfffffffe [0xf003]) = .fault (.stuck 0xfffffffe) ∧
    step (launch 0xfffffffe [0x403f]) = .fault (.stuck 0xfffffffe) ∧
    step (launch 0xfffffffe [0x403f, 0x0010]) = .fault (.stuck 0xfffffffe) ∧
    step { launch 0x4001 [] with cfg := { config with haltSet := [0x4001] } } = .fault (.halted 0x4001) :=
  ⟨rfl, rfl, rfl, rfl, rfl, rfl, rfl, rfl, rfl⟩

theorem meets_StepKeepsLaunchPremises :
    LaunchOk atVector ∧ step atVector = .next (atVector.taken 4 (-8)) := ⟨test_atVector_launchOk, rfl⟩

theorem meets_StepWritesPcOnly : step atZero = .next (atZero.taken 4 16) := rfl

theorem meets_PcGoesToTheFallThroughOrTheTarget :
    step atZero = .next (atZero.taken 4 16) ∧
    step (put 3 1 1 (launch 0x1000 [0xf003, 0x0010])) = .next ((put 3 1 1 (launch 0x1000 [0xf003, 0x0010])).notTaken 4) ∧
    ∀ t, step atExcType ≠ .next t := ⟨rfl, rfl, meets_EveryEndLeavesTheStateAndEndsTheRun.1⟩

theorem meets_RunsKeepEverythingButPc :
    LaunchOk atZero ∧ Sys2Proof.core.run 1 atZero = .next (atZero.taken 4 16) := ⟨test_atZero_launchOk, rfl⟩

theorem meets_PlacedInstructionIsTheOneThatRuns :
    decodeTableWord 16 0xf003 = some (.cbAnyEqz 3 0) ∧
    decodeTableWord 48 0xff21001c001f = some (.cbTanyNeG0 28 { a := 1, b := 2, c := 0xf, d := 0xf }) := by decide

/-- Each answer of type handling of one operand, and the bounds of the offset. -/
theorem meets_CompareWithZeroBranches :
    encodableOffset 65534 = true ∧ encodableOffset (-65536) = true ∧
    typeRule atZero.cfg none (atZero.typeOf 3) = .compare (some .tI32) ∧
    typeRule atVector.cfg none (atVector.typeOf 1) = .compare (some .tV16) ∧
    typeRule config none ((put 14 3 0 atZero).typeOf 14) = .compare (some .tF32) ∧
    typeRule config none ((put 0 14 0 atZero).typeOf 0) = .compare none ∧
    typeRule { config with typeRules := [{ left := none, right := 1, ruling := .excType }] } none (atZero.typeOf 3) =
      .excType := by decide

/-- Each answer of type handling of two operands. -/
theorem meets_CompareRegistersBranches :
    typeRule atVector.cfg (some (atVector.typeOf 1)) (atVector.typeOf 2) = .compare (some .tV16) ∧
    typeRule config (some ((put 14 3 0 atZero).typeOf 14)) ((put 14 3 0 atZero).typeOf 14) = .compare (some .tF32) ∧
    typeRule config (some ((put 0 14 0 atZero).typeOf 0)) ((put 0 14 0 atZero).typeOf 0) = .compare none ∧
    typeRule atExcType.cfg (some (atExcType.typeOf 1)) (atExcType.typeOf 2) = .excType := by decide

/-- The first and the last code of a bit position, and the bounds of the offset. -/
theorem meets_BitTestBranches :
    bitPos 0x0 = some 0 ∧ bitPos 0xe = some 31 ∧ encodableOffset 65534 = true ∧ encodableOffset (-65536) = true := by
  decide

/-- The bounds of the offset of a group branch; its statements ask nothing else. -/
theorem meets_TypeGroupBranches : encodableOffset 65534 = true ∧ encodableOffset (-65536) = true := by decide

/-- The last lane of a value, the only lane of a scalar, and the last bit of each. -/
theorem meets_LaneIsItsSliceOfTheRegister :
    16 * 1 + 16 ≤ 32 * (([] : List Word).length + 1) ∧ 15 < 16 ∧ 32 * 0 + 32 ≤ 32 * (([] : List Word).length + 1) ∧
    31 < 32 ∧ 8 * 7 + 8 ≤ 32 * (([0] : List Word).length + 1) ∧ 7 < 8 := by decide

theorem meets_TypeMaskBranch :
    config.maskPlacement = .lsb0 ∧ ({ config with maskPlacement := .lsb1 } : Config).maskPlacement = .lsb1 ∧
    (0x7fff : Parcel) &&& 0x7fff#16 = 0x7fff#16 ∧ (0x8000 : Parcel) &&& 0x7fff#16 = 0#16 ∧
    (0xfffe : Parcel) &&& 0xfffe#16 = 0xfffe#16 ∧ (0x0001 : Parcel) &&& 0xfffe#16 = 0#16 := by decide

theorem meets_ExcTypeExactlyWhenTheRuleSays :
    handledTypes (.cbAnyEq 1 2 0) atExcType = some (some 1, 2) ∧ typeRule atExcType.cfg (some 1) 2 = .excType ∧
    exec (.cbAnyEq 1 2 0) atExcType = .fault (.excType 0x1000 0xf112) ∧ atExcType.cfg.typeRules = [] ∧
    Instr.cbAnyEqz ∈ zeroForms ∧ Instr.cbAllGeu ∈ regForms := by
  refine ⟨rfl, rfl, rfl, rfl, ?_, ?_⟩
  · simp [zeroForms]
  · simp [regForms]

theorem meets_TypeRuleIsTheEntryElseTheDefault :
    config.typeRules = [] ∧ (0 : TypeCode) ≠ 14 ∧ ((some 14, 0) : Option TypeCode × TypeCode) ≠ (none, 0) := by decide

/-- A scalar and a vector type; arguments that an entry does not decide; a configuration without entries; counts at
the bound, 2 of 16 bits in 32, cut to the bound, and 0; at lane width 0 a count that nothing cuts (log 38). -/
theorem meets_LaneCountIsOneOrBounded :
    Descriptor.tI32.shape = .scalar ∧ Descriptor.tV16.shape = .vector ∧
    (Descriptor.tV16, 1) ≠ (Descriptor.tV16, 0) ∧ resetConfig.laneCounts = [] ∧
    nLanes atVector .tV16 = 2 ∧ nLanes { atVector with vend := 1 } .tV16 = 0 ∧
    0 < Descriptor.tV16.width ∧
    activeLanes { config with laneCounts := [{ desc := .tV16, vend := 0, lanes := 3 }] } .tV16 0 = 2 ∧
    activeLanes
      { config with laneCounts := [{ desc := { Descriptor.tV16 with width := 0 }, vend := 0, lanes := 3 }] }
      { Descriptor.tV16 with width := 0 } 0 = 3 := by decide

theorem meets_NegatedRelationsBranchOpposite :
    typeRule atVector.cfg none (atVector.typeOf 1) = .compare (some .tV16) ∧
    typeRule atVector.cfg (some (atVector.typeOf 1)) (atVector.typeOf 2) = .compare (some .tV16) ∧
    Descriptor.tV16.kind = .fixed := by decide

theorem meets_ScalarTypesMakeAnyAndAllAlike :
    typeRule atZero.cfg none (atZero.typeOf 3) = .compare (some .tI32) ∧
    typeRule atZero.cfg (some (atZero.typeOf 3)) (atZero.typeOf 4) = .compare (some .tI32) ∧
    Descriptor.tI32.kind = .fixed ∧ Descriptor.tI32.shape = .scalar := by decide

/-- With two lanes compared, and with none. -/
theorem meets_RegisterComparedWithItself :
    typeRule atVector.cfg (some (atVector.typeOf 1)) (atVector.typeOf 1) = .compare (some .tV16) ∧
    Descriptor.tV16.kind = .fixed ∧ 0 < nLanes atVector .tV16 ∧ nLanes { atVector with vend := 1 } .tV16 = 0 := by decide

/-- Two different states that agree on the reads of a compare, of a bit test, of a group branch and of a mask branch. -/
theorem meets_InstructionsReadOnlyWhatTheSpecLists :
    agreeOnReads (.cbAnyLts 1 2 0) atVector { put 3 7 9 atVector with vstart := 1 } ∧
    agreeOnReads (.cbBit1 3 31 0) atZero { put 3 7 0 atZero with vend := 5 } ∧
    agreeOnReads (.cbTanyNeG3 0 { a := 0, b := 0, c := 0, d := 0 }) atZero (put 11 7 9 atZero) ∧
    agreeOnReads (.cbTmask 3 0 0) atZero (put 4 7 9 atZero) ∧
    atVector.cfg = (put 3 7 9 atVector).cfg ∧ atVector.pc = (put 3 7 9 atVector).pc := by
  unfold agreeOnReads
  decide

/-- Another value of the register with the same single compared lane, under a count of one lane. -/
theorem meets_LanesBeyondTheCountDoNotMatter :
    let s : State := { atVector with cfg := { config with laneCounts := [{ desc := .tV16, vend := 0, lanes := 1 }] } }
    typeRule s.cfg none (s.typeOf 1) = .compare (some .tV16) ∧
    typeRule s.cfg (some (s.typeOf 1)) (s.typeOf 2) = .compare (some .tV16) ∧ nLanes s .tV16 = 1 ∧
    (∀ i < nLanes s .tV16,
      lane { scalar := 0x8000ffff, upper := [] } Descriptor.tV16.width i = lane (s.value 1) Descriptor.tV16.width i) := by
  decide

theorem meets_ExcludedRegistersAreNotTested :
    ((2, 0xf#4) : RegIdx × Nibble) ∈ (groupRegs 0).zip [1, 2, 0xf, 0xf] ∧ (14 : RegIdx) ∉ groupRegs 0 ∧
    (∃ p ∈ anyGroupForms ++ allGroupForms, p.2 = 3) :=
  ⟨by decide, by decide, (.cbTanyNeG3, 3), by simp [anyGroupForms], rfl⟩

theorem meets_EmptyTestsBranchAsAllAndNotAsAny :
    (∃ p ∈ anyGroupForms, p.2 = 3) ∧ (∃ p ∈ allGroupForms, p.2 = 3) ∧ nLanes { atVector with vend := 1 } .tV16 = 0 ∧
    typeRule atVector.cfg none (atVector.typeOf 1) = .compare (some .tV16) ∧
    typeRule atVector.cfg (some (atVector.typeOf 1)) (atVector.typeOf 2) = .compare (some .tV16) :=
  ⟨⟨(.cbTanyNeG3, 3), by simp [anyGroupForms], rfl⟩, ⟨(.cbTallNeG3, 3), by simp [allGroupForms], rfl⟩, by decide,
    by decide, by decide⟩

/-- Bytes at the two ends of the address space, in both orders; a parcel with a byte missing. -/
theorem meets_ReadParcelAssemblesTwoBytes :
    (launch 0xffffffff [0xf003]).mem.read 0xffffffff = some 0x03 ∧
    (launch 0xffffffff [0xf003]).mem.read (0xffffffff + 1#32) = some 0xf0 ∧
    (launch 0xffffffff [0xf003]).cfg.byteOrder = .little ∧
    ({ config with byteOrder := .big } : Config).byteOrder = .big ∧
    (launch 0 [0xf003]).mem.read (1 + 1#32) = none := by decide

end Sys2Proof.Tests
end

section
/-! The statements of spec/10_state.md: what a completed step writes, where `pc` goes, what a run keeps, what an
instruction reads, and that a recorded outcome stays. -/

namespace Sys2Proof.Machine

/-! ### What the decoder consumes -/

/-- What parcel 0 decided fixes the length, and the offset is the one it is given (R52, R59). -/
def FormOk : Form → Prop
  | .short mk => ∀ v, (mk v).length = 4 ∧ (mk v).value = v
  | .long mk => ∀ v f, (mk v f).length = 6 ∧ (mk v f).value = v

theorem formOk_of_decodeZero {w0 : Parcel} {b : Nibble} {ra : RegIdx} {f : Form}
    (h : decodeZero w0 b ra = .ok f) : FormOk f := by
  unfold decodeZero at h
  split at h <;> cases h <;> exact fun _ => ⟨rfl, rfl⟩

theorem formOk_of_decodeReg {w0 : Parcel} {c : Nibble} {rb ra : RegIdx} {f : Form}
    (h : decodeReg w0 c rb ra = .ok f) : FormOk f := by
  unfold decodeReg at h
  split at h <;> cases h <;> exact fun _ => ⟨rfl, rfl⟩

theorem formOk_of_decodeShort {w0 : Parcel} {c b a : Nibble} {f : Form}
    (h : decodeShort w0 c b a = .ok f) : FormOk f := by
  unfold decodeShort at h
  split at h
  · cases h
  · split at h <;> cases h
    exact fun _ => ⟨rfl, rfl⟩
  · split at h <;> cases h
    exact fun _ => ⟨rfl, rfl⟩
  · split at h
    · exact formOk_of_decodeZero h
    · exact formOk_of_decodeReg h

theorem formOk_of_decodeGroupAny {w0 : Parcel} {d : Nibble} {f : Form}
    (h : decodeGroupAny w0 d = .ok f) : FormOk f := by
  unfold decodeGroupAny at h
  split at h <;> cases h <;> exact fun _ _ => ⟨rfl, rfl⟩

theorem formOk_of_decodeGroupAll {w0 : Parcel} {d : Nibble} {f : Form}
    (h : decodeGroupAll w0 d = .ok f) : FormOk f := by
  unfold decodeGroupAll at h
  split at h <;> cases h <;> exact fun _ _ => ⟨rfl, rfl⟩

theorem formOk_of_decodeLong {w0 : Parcel} {d b : Nibble} {f : Form}
    (h : decodeLong w0 d b = .ok f) : FormOk f := by
  unfold decodeLong at h
  split at h
  · exact formOk_of_decodeGroupAny h
  · exact formOk_of_decodeGroupAll h
  · split at h <;> cases h
    exact fun _ _ => ⟨rfl, rfl⟩
  · cases h

theorem formOk_of_decodeForm {w0 : Parcel} {f : Form} (h : decodeForm w0 = .ok f) : FormOk f := by
  unfold decodeForm at h
  split at h
  · exact formOk_of_decodeShort h
  · split at h
    · exact formOk_of_decodeLong h
    · cases h

/-- The parcels that the decoder consumes: they decode alone, the second is `FIELD_E`, and there are as many as the
length of the instruction asks (R50, R52, R59). -/
theorem decode_consumes {ps rest : List Parcel} {i : Instr} (h : decode ps = .ok (i, rest)) :
    ∃ used e, ps = used ++ rest ∧ decode used = .ok (i, []) ∧ used[1]? = some e ∧ i.value = brOffset e ∧
      (i.length = 4 ∧ used.length = 2 ∨ i.length = 6 ∧ used.length = 3) := by
  cases ps with
  | nil => cases h
  | cons w0 tail =>
    cases hf : decodeForm w0 with
    | error err => simp [decode, hf] at h
    | ok form =>
      have hok := formOk_of_decodeForm hf
      cases form with
      | short mk =>
        cases tail with
        | nil => simp [decode, hf] at h
        | cons e tail =>
          obtain ⟨rfl, rfl⟩ : mk (brOffset e) = i ∧ tail = rest := by simpa [decode, hf] using h
          obtain ⟨hlen, hval⟩ := hok (brOffset e)
          exact ⟨[w0, e], e, rfl, by simp [decode, hf], rfl, hval, .inl ⟨hlen, rfl⟩⟩
      | long mk =>
        match tail with
        | [] => simp [decode, hf] at h
        | [_] => simp [decode, hf] at h
        | e :: f :: tail =>
          obtain ⟨rfl, rfl⟩ : mk (brOffset e) f = i ∧ tail = rest := by simpa [decode, hf] using h
          obtain ⟨hlen, hval⟩ := hok (brOffset e) f
          exact ⟨[w0, e, f], e, rfl, by simp [decode, hf], rfl, hval, .inr ⟨hlen, rfl⟩⟩

/-! ### What memory holds where the fetch reads -/

theorem holdsParcels_nil (s : State) (a : Word) : HoldsParcels s a [] := fun _ h => absurd h (Nat.not_lt_zero _)

theorem holdsParcels_cons {s : State} {a : Word} {p : Parcel} {ps : List Parcel} (hp : s.readParcel a = some p)
    (hps : HoldsParcels s (a + 2#32) ps) : HoldsParcels s a (p :: ps) := by
  intro k hk
  cases k with
  | zero => simpa using hp
  | succ k =>
    have haddr : a + BitVec.ofNat 32 (2 * (k + 1)) = a + 2#32 + BitVec.ofNat 32 (2 * k) := by
      rw [Nat.mul_succ, Nat.add_comm, BitVec.ofNat_add, BitVec.add_assoc]
    rw [haddr]
    exact hps k (Nat.lt_of_succ_lt_succ hk)

/-- The parcels of a fetch are those that memory holds (R32, R34). -/
theorem holdsParcels_parcelsAt (s : State) (n : Nat) (a : Word) : HoldsParcels s a (s.parcelsAt n a) := by
  induction n generalizing a with
  | zero => exact holdsParcels_nil s a
  | succ n ih =>
    unfold State.parcelsAt
    cases hp : s.readParcel a with
    | none => exact holdsParcels_nil s a
    | some p => exact holdsParcels_cons hp (ih _)

/-- Memory that holds parcels holds the first of them. -/
theorem holdsParcels_of_append {s : State} {a : Word} {ps qs : List Parcel} (h : HoldsParcels s a (ps ++ qs)) :
    HoldsParcels s a ps := by
  intro k hk
  have := h k (by rw [List.length_append]; omega)
  rwa [List.getElem_append_left hk] at this

/-! ### Even addresses -/

/-- No carry enters bit 0 of a sum. -/
theorem add_even {a b : Word} (ha : a.getLsbD 0 = false) (hb : b.getLsbD 0 = false) :
    (a + b).getLsbD 0 = false := by
  rw [BitVec.getLsbD_add (by decide), ha, hb, BitVec.carry_zero]
  rfl

/-- Every offset that a field spells is even (R56). -/
theorem brOffset_even (e : Parcel) : (brOffset e).getLsbD 0 = false := by
  rw [brOffset, BitVec.getLsbD_signExtend, BitVec.getLsbD_append]
  rfl

/-! ### What a completed step does -/

/-- An instruction that completes writes `pc` only: the fall-through address or the target (R16, R101). -/
theorem exec_next_inv {i : Instr} {s t : State} (h : exec i s = .next t) :
    ∃ taken : Bool, t = s.setPc (if taken then s.branchBase (BitVec.ofNat 32 i.length) + i.value
      else s.pc + BitVec.ofNat 32 i.length) := by
  rcases exec_shape i s with ⟨_, c, hx⟩ | ⟨_, _, _, _, _, _, hx⟩ | ⟨_, _, _, _, hx⟩
  · rw [h, branchIf_eq] at hx
    exact ⟨c, Host.Outcome.next.inj hx⟩
  · cases h.symm.trans hx
  · cases h.symm.trans hx

/-- Everything a step that completes does: it runs the instruction that the parcels at an even `pc` decode to, and
writes `pc` only, the fall-through address or the target (R16, R100, R101). -/
theorem step_next_cases {s t : State} (h : step s = .next t) :
    s.pc.getLsbD 0 = false ∧
    ∃ ps i e, HoldsParcels s s.pc ps ∧ decode ps = .ok (i, []) ∧ ps[1]? = some e ∧
      (i.length = 4 ∧ ps.length = 2 ∨ i.length = 6 ∧ ps.length = 3) ∧ exec i s = .next t ∧
      (t = s.setPc (s.pc + BitVec.ofNat 32 i.length) ∨
        t = s.setPc (s.branchBase (BitVec.ofNat 32 i.length) + brOffset e)) := by
  obtain ⟨_, heven, i, rest, hdec, hexec⟩ := step_next_inv h
  obtain ⟨used, e, hsplit, hused, he, hval, hlen⟩ := decode_consumes hdec
  have hmem : HoldsParcels s s.pc used := holdsParcels_of_append (hsplit ▸ holdsParcels_parcelsAt s 3 s.pc)
  refine ⟨heven, used, i, e, hmem, hused, he, hlen, hexec, ?_⟩
  obtain ⟨taken, ht⟩ := exec_next_inv hexec
  rw [hval] at ht
  cases taken with
  | false => exact .inl ht
  | true => exact .inr ht

/-- `t` is `s` with another `pc` (R16). -/
def PcOnlyFrom (s t : State) : Prop := t = { s with pc := t.pc }

theorem pcOnlyFrom_setPc (s : State) (a : Word) : PcOnlyFrom s (s.setPc a) := rfl

theorem pcOnlyFrom_refl (s : State) : PcOnlyFrom s s := rfl

theorem PcOnlyFrom.trans {s t u : State} (hst : PcOnlyFrom s t) (htu : PcOnlyFrom t u) : PcOnlyFrom s u := by
  unfold PcOnlyFrom at *
  rw [hst] at htu
  exact htu

/-- A step that completes writes `pc` only (R16). -/
theorem step_pcOnly {s t : State} (h : step s = .next t) : PcOnlyFrom s t := by
  obtain ⟨_, ps, i, e, _, _, _, _, _, rfl | rfl⟩ := step_next_cases h
  · exact pcOnlyFrom_setPc s _
  · exact pcOnlyFrom_setPc s _

theorem branchBase_even {s : State} {len : Word} (hs : s.pc.getLsbD 0 = false) (hlen : len.getLsbD 0 = false) :
    (s.branchBase len).getLsbD 0 = false := by
  rcases branchBase_cases s len with ⟨_, hb⟩ | ⟨_, hb⟩ <;> rw [hb]
  · exact hs
  · exact add_even hs hlen

/-- A step that completes leaves an even `pc`: lengths and offsets are even (R18). -/
theorem step_pc_even {s t : State} (h : step s = .next t) : t.pc.getLsbD 0 = false := by
  obtain ⟨heven, ps, i, e, _, _, _, hlen, _, hpc⟩ := step_next_cases h
  have hlenEven : (BitVec.ofNat 32 i.length).getLsbD 0 = false := by
    rcases hlen with ⟨h4, _⟩ | ⟨h6, _⟩
    · rw [h4]; rfl
    · rw [h6]; rfl
  rcases hpc with rfl | rfl
  · exact add_even heven hlenEven
  · exact add_even (branchBase_even heven hlenEven) (brOffset_even e)

/-- The launch premises do not depend on `pc`, but for its being even (R221). -/
theorem LaunchOk.of_pcOnlyFrom {s t : State} (hs : LaunchOk s) (hst : PcOnlyFrom s t)
    (heven : t.pc.getLsbD 0 = false) : LaunchOk t := by
  rw [hst]
  exact { evenPc := heven, noRecord := hs.noRecord, lanes := hs.lanes, memory := hs.memory, widths := hs.widths }

/-- Every step that completes keeps the launch premises (R221). -/
theorem step_keeps_launchOk {s t : State} (hs : LaunchOk s) (h : step s = .next t) : LaunchOk t :=
  hs.of_pcOnlyFrom (step_pcOnly h) (step_pc_even h)

/-! ### Runs -/

/-- What every completed step keeps holds after any number of completed steps. -/
theorem run_keeps {P : State → Prop} (hstep : ∀ s t, P s → step s = .next t → P t) {k : Nat} {s t : State}
    (hs : P s) (h : Sys2Proof.core.run k s = .next t) : P t := by
  induction k generalizing s with
  | zero =>
    cases h
    exact hs
  | succ k ih =>
    obtain ⟨u, hsu, hut⟩ := core_run_inv h
    exact ih (hstep s u hs hsu) hut

/-- A run of completed steps writes `pc` only (R16, R223). -/
theorem run_pcOnly {k : Nat} {s t : State} (h : Sys2Proof.core.run k s = .next t) : PcOnlyFrom s t :=
  run_keeps (P := PcOnlyFrom s) (fun _ _ hs hst => hs.trans (step_pcOnly hst)) (pcOnlyFrom_refl s) h

/-- A run of completed steps keeps the launch premises (R221). -/
theorem run_keeps_launchOk {k : Nat} {s t : State} (hs : LaunchOk s) (h : Sys2Proof.core.run k s = .next t) :
    LaunchOk t :=
  run_keeps (fun _ _ => step_keeps_launchOk) hs h

/-! ### Steps that do not complete -/

/-- Recording an end leaves `pc` (R27). -/
theorem advance_pc_of_not_next {s : State} (h : ∀ t, step s ≠ .next t) : (advance s).pc = s.pc := by
  unfold advance
  cases hs : step s with
  | next t => exact absurd hs (h t)
  | fault f => rfl
  | refused r => rfl

/-- Recording the outcome a state has recorded leaves the state (R27). -/
theorem settle_outcome_of_record {s : State} {r : EndRecord} (h : s.record = some r) : s.settle r.outcome = s := by
  have hrec : { s with record := some r } = s := by rw [← h]
  cases r <;> exact hrec

/-- A state with a recorded outcome answers it (R27, log 31). -/
theorem step_of_record {s : State} {r : EndRecord} (h : s.record = some r) : step s = r.outcome := by
  simp [step, State.ended?, h]

/-! ### What an instruction reads -/

/-- Two outcomes are alike: both complete, writing the same address to `pc` and nothing else, or both stop for the same
reason. -/
def SameOutcome (s t : State) (o p : Result) : Prop :=
  (∃ a : Word, o = .next { s with pc := a } ∧ p = .next { t with pc := a }) ∨
  (∃ f, o = .fault f ∧ p = .fault f) ∨
  (∃ r, o = .refused r ∧ p = .refused r)

section Agreement

variable {s t : State} (hcfg : s.cfg = t.cfg) (hpc : s.pc = t.pc)
include hcfg hpc

theorem branchBase_congr (len : Word) : s.branchBase len = t.branchBase len := by
  simp [State.branchBase, hcfg, hpc]

/-- The branch action reads its condition, `pc` and the configuration (R101). -/
theorem branchIf_sameOutcome {c d : Bool} (hcd : c = d) (len v : Word) :
    SameOutcome s t (branchIf c len v s) (branchIf d len v t) := by
  subst hcd
  refine .inl ⟨if c then s.branchBase len + v else s.pc + len, branchIf_eq c len v s, ?_⟩
  rw [branchIf_eq, branchBase_congr hcfg hpc, hpc]
  rfl

omit hpc in
theorem nLanes_congr (hvend : s.vend = t.vend) (d : Descriptor) : nLanes s d = nLanes t d := by
  simp [nLanes, hcfg, hvend]

/-- A compare with zero reads the value and type of its register, and `VEND` (R104, R120). -/
theorem compareZero_sameOutcome (agg : Aggregation) (rel : ZeroRel) {ra : RegIdx} (v : Word)
    (hval : s.value ra = t.value ra) (htype : s.typeOf ra = t.typeOf ra) (hvend : s.vend = t.vend) :
    SameOutcome s t (compareZero agg rel ra v s) (compareZero agg rel ra v t) := by
  have hcheck : typeCheck1 s ra = typeCheck1 t ra := by simp [typeCheck1, hcfg, htype]
  unfold compareZero
  rw [hcheck]
  rcases typeCheck1 t ra with (_ | d) | _
  · exact .inr (.inr ⟨_, rfl, by rw [hpc, htype]⟩)
  · exact branchIf_sameOutcome hcfg hpc (by rw [nLanes_congr hcfg hvend, hval]) 4 v
  · exact .inr (.inl ⟨_, rfl, by rw [raiseExcType, hpc]⟩)

/-- A compare of two registers reads their values and types, and `VEND` (R104, R140). -/
theorem compareReg_sameOutcome (agg : Aggregation) (rel : RegRel) {rb ra : RegIdx} (v : Word)
    (hvalB : s.value rb = t.value rb) (htypeB : s.typeOf rb = t.typeOf rb)
    (hvalA : s.value ra = t.value ra) (htypeA : s.typeOf ra = t.typeOf ra) (hvend : s.vend = t.vend) :
    SameOutcome s t (compareReg agg rel rb ra v s) (compareReg agg rel rb ra v t) := by
  have hcheck : typeCheck2 s rb ra = typeCheck2 t rb ra := by simp [typeCheck2, hcfg, htypeA, htypeB]
  unfold compareReg
  rw [hcheck]
  rcases typeCheck2 t rb ra with (_ | d) | _
  · exact .inr (.inr ⟨_, rfl, by rw [hpc, htypeA]⟩)
  · exact branchIf_sameOutcome hcfg hpc (by rw [nLanes_congr hcfg hvend, hvalA, hvalB]) 4 v
  · exact .inr (.inl ⟨_, rfl, by rw [raiseExcType, hpc]⟩)

/-- A group branch reads the types of its group (R170). -/
theorem groupTest_sameOutcome (agg : Aggregation) (rel : TypeRel) (g : Fin 4) (v : Word) (types : TypeWord)
    (htypes : ∀ r ∈ groupRegs g, s.typeOf r = t.typeOf r) :
    SameOutcome s t (groupTest agg rel g v types s) (groupTest agg rel g v types t) := by
  have hcond : ∀ p ∈ underTest g types, typeHolds rel s p = typeHolds rel t p := by
    rintro ⟨r, expected⟩ hp
    have hr : r ∈ groupRegs g := (List.of_mem_zip (List.mem_of_mem_filter hp)).1
    simp [typeHolds, typeIs, htypes r hr]
  exact branchIf_sameOutcome hcfg hpc (aggregate_congr agg _ _ _ hcond) 6 v

end Agreement

/-- The registers of a group are the four from `4 g` on that exist (R170, R171). -/
theorem groupRegs_bounds : ∀ g : Fin 4, ∀ r ∈ groupRegs g, 4 * g.val ≤ r.val ∧ r.val < 4 * g.val + 4 := by
  decide

/-- `exec` answers alike from two states that agree on what the instruction reads (R16). -/
theorem exec_sameOutcome {i : Instr} {s t : State} (hcfg : s.cfg = t.cfg) (hpc : s.pc = t.pc)
    (hreads : agreeOnReads i s t) : SameOutcome s t (exec i s) (exec i t) := by
  cases i with
  | cbAnyEqz ra v | cbAnyNez ra v | cbAnyLtz ra v | cbAnyGez ra v | cbAnyGtz ra v | cbAnyLez ra v
  | cbAllEqz ra v | cbAllNez ra v | cbAllLtz ra v | cbAllGez ra v | cbAllGtz ra v | cbAllLez ra v =>
    obtain ⟨hval, htype, hvend⟩ := hreads
    exact compareZero_sameOutcome hcfg hpc _ _ v hval htype hvend
  | cbAnyEq rb ra v | cbAnyNe rb ra v | cbAnyLts rb ra v | cbAnyGes rb ra v | cbAnyLtu rb ra v | cbAnyGeu rb ra v
  | cbAllEq rb ra v | cbAllNe rb ra v | cbAllLts rb ra v | cbAllGes rb ra v | cbAllLtu rb ra v | cbAllGeu rb ra v =>
    obtain ⟨hvalB, htypeB, hvalA, htypeA, hvend⟩ := hreads
    exact compareReg_sameOutcome hcfg hpc _ _ v hvalB htypeB hvalA htypeA hvend
  | cbBit1 r c v | cbBit0 r c v =>
    have hscalar : (s.value r).scalar = (t.value r).scalar := hreads
    exact branchIf_sameOutcome hcfg hpc (by simp [scalarBit, hscalar]) 4 v
  | cbTanyNeG0 v types | cbTallNeG0 v types | cbTanyEqG0 v types | cbTallEqG0 v types =>
    exact groupTest_sameOutcome hcfg hpc _ _ 0 v types fun r hr => hreads r (groupRegs_bounds 0 r hr).2
  | cbTanyNeG1 v types | cbTallNeG1 v types | cbTanyEqG1 v types | cbTallEqG1 v types =>
    refine groupTest_sameOutcome hcfg hpc _ _ 1 v types fun r hr => ?_
    obtain ⟨hlow, hhigh⟩ := groupRegs_bounds 1 r hr
    exact hreads r hlow hhigh
  | cbTanyNeG2 v types | cbTallNeG2 v types | cbTanyEqG2 v types | cbTallEqG2 v types =>
    refine groupTest_sameOutcome hcfg hpc _ _ 2 v types fun r hr => ?_
    obtain ⟨hlow, hhigh⟩ := groupRegs_bounds 2 r hr
    exact hreads r hlow hhigh
  | cbTanyNeG3 v types | cbTallNeG3 v types | cbTanyEqG3 v types | cbTallEqG3 v types =>
    exact groupTest_sameOutcome hcfg hpc _ _ 3 v types fun r hr => hreads r (groupRegs_bounds 3 r hr).1
  | cbTmask rd v f =>
    have htype : s.typeOf rd = t.typeOf rd := hreads
    exact branchIf_sameOutcome hcfg hpc (by rw [hcfg, htype]) 6 v

/-! ### The statements -/

/-- Settles O24: by induction on the steps, each of which writes `pc` only and keeps the launch premises. -/
theorem runsKeepEverythingButPc : Obligations.RunsKeepEverythingButPc := by
  intro k s t hs hrun
  have ht : LaunchOk t := run_keeps_launchOk hs hrun
  exact ⟨run_pcOnly hrun, ht.evenPc, ht⟩

/-- Settles O22: the next state is the state before with another `pc`, which no other read sees. -/
theorem stepWritesPcOnly : Obligations.StepWritesPcOnly := by
  intro s t h
  have hpc : t = s.setPc t.pc := step_pcOnly h
  rw [hpc]
  exact ⟨rfl, fun r => ⟨setPc_value s _ r, setPc_typeOf s _ r⟩, fun a => rfl⟩

/-- Settles O23: from the one lemma on completed steps, and from what recording an end leaves unchanged. -/
theorem pcGoesToTheFallThroughOrTheTarget : Obligations.PcGoesToTheFallThroughOrTheTarget := by
  refine ⟨fun s t h => ?_, fun s => advance_pc_of_not_next⟩
  obtain ⟨_, ps, i, e, hmem, hdec, he, hlen, hexec, ht⟩ := step_next_cases h
  refine ⟨ps, i, e, hmem, hdec, he, hlen, hexec, ?_⟩
  rcases ht with ht | ht
  · exact .inl (congrArg State.pc ht)
  · exact .inr (congrArg State.pc ht)

/-- Settles O41: family by family, each shared operation reads no more than the spec lists. -/
theorem instructionsReadOnlyWhatTheSpecLists : Obligations.InstructionsReadOnlyWhatTheSpecLists :=
  fun _ _ _ hcfg hpc hreads => exec_sameOutcome hcfg hpc hreads

/-- Settles O16: the record is what the step answers, and recording it again changes nothing. -/
theorem recordedOutcomeStays : Obligations.RecordedOutcomeStays := by
  intro s r h
  refine ⟨step_of_record h, ?_⟩
  rw [advance, step_of_record h]
  exact settle_outcome_of_record h

end Sys2Proof.Machine
end

section
/-! The statements of spec/20_memory.md: how two bytes make a parcel, that bytes carry the parcels they were made from,
and that a step runs the instruction that was placed at `pc`. -/

namespace Sys2Proof.Machine

/-! ### A parcel and its two bytes -/

/-- Two bytes as the parcel they make, the second the less significant (R33). -/
theorem bytes_append_eq_ofNat (hi lo : Byte) :
    (hi ++ lo : Parcel) = BitVec.ofNat 16 (lo.toNat + 2 ^ 8 * hi.toNat) := by
  rw [Nat.add_comm lo.toNat, ← bytes_append_toNat, BitVec.ofNat_toNat, BitVec.setWidth_eq]

theorem joinBytes_little (lo hi : Byte) :
    joinBytes .little lo hi = BitVec.ofNat 16 (lo.toNat + 2 ^ 8 * hi.toNat) :=
  bytes_append_eq_ofNat hi lo

theorem joinBytes_big (lo hi : Byte) :
    joinBytes .big lo hi = BitVec.ofNat 16 (hi.toNat + 2 ^ 8 * lo.toNat) :=
  bytes_append_eq_ofNat lo hi

/-- A parcel is missing exactly when one of its two bytes is (R34, R35). -/
theorem readParcel_eq_none_iff (s : State) (a : Word) :
    s.readParcel a = none ↔ s.mem.read a = none ∨ s.mem.read (a + 1#32) = none := by
  unfold State.readParcel
  cases s.mem.read a with
  | none => simp
  | some lo => cases s.mem.read (a + 1#32) <;> simp

/-! ### Sequences of parcels as bytes -/

/-- Bytes hold the parcels that they were made from, in either byte order (R32, R33). -/
@[simp] theorem parcelsOfBytes_bytesOfParcels (o : ByteOrder) (ps : List Parcel) :
    parcelsOfBytes o (bytesOfParcels o ps) = ps := by
  induction ps with
  | nil => rfl
  | cons p ps ih => rw [bytesOfParcels, parcelsOfBytes, joinBytes_splitParcel, ih]

theorem decodeBytes_bytesOfParcels (o : ByteOrder) (ps : List Parcel) :
    decodeBytes o (bytesOfParcels o ps) = decode ps := by
  rw [decodeBytes, parcelsOfBytes_bytesOfParcels]

/-- What the table decoder reads is what the parcels of the table word decode to. -/
theorem decode_tableParcels_of_decodeTableWord {nbits w : Nat} {i : Instr} (h : decodeTableWord nbits w = some i) :
    ∃ rest, decode (tableParcels nbits w) = .ok (i, rest) := by
  rw [decodeTableWord, decodeBytes_bytesOfParcels] at h
  cases hdec : decode (tableParcels nbits w) with
  | error err => simp [hdec] at h
  | ok res =>
    obtain ⟨j, rest⟩ := res
    obtain rfl : j = i := by simpa [hdec] using h
    exact ⟨rest, rfl⟩

/-! ### Memory after parcels were laid into it -/

/-- A parcel that is written at `a` changes no byte but those at `a` and `a + 1` (R33). -/
theorem read_writeParcel_of_ne (m : Memory) (o : ByteOrder) {a b : Word} (p : Parcel) (hlo : b ≠ a)
    (hhi : b ≠ a + 1#32) : (m.writeParcel o a p).read b = m.read b := by
  rw [Memory.writeParcel, read_write, if_neg hhi, read_write, if_neg hlo]

/-- Parcels written from `d` bytes above `a` on leave the byte at `a`, as long as they do not come round to it past the
top of the address space (R30, R32). -/
theorem read_writeParcels_of_above (o : ByteOrder) (m : Memory) (a : Word) (ps : List Parcel) {d : Nat} (hd : 0 < d)
    (hround : d + 2 * ps.length ≤ 2 ^ 32) :
    (Memory.writeParcels o m (a + BitVec.ofNat 32 d) ps).read a = m.read a := by
  induction ps generalizing m d with
  | nil => rfl
  | cons p ps ih =>
    rw [List.length_cons] at hround
    have hlo : a ≠ a + BitVec.ofNat 32 d := by bv_omega
    have hhi : a ≠ a + BitVec.ofNat 32 d + 1#32 := by bv_omega
    have hnext : a + BitVec.ofNat 32 d + 2#32 = a + BitVec.ofNat 32 (d + 2) := by
      rw [BitVec.ofNat_add, BitVec.add_assoc]
    rw [Memory.writeParcels, hnext, ih _ (by omega) (by omega), read_writeParcel_of_ne m o p hlo hhi]

/-- The first of the parcels that were laid into memory at `a` is read back at `a`, in the byte order they were laid
in (R33, R34). -/
theorem readParcel_of_writeParcels {s : State} {m : Memory} {a : Word} {p : Parcel} {ps : List Parcel}
    (hmem : s.mem = Memory.writeParcels s.cfg.byteOrder m a (p :: ps)) (hfit : 2 * (p :: ps).length ≤ 2 ^ 32) :
    s.readParcel a = some p := by
  rw [List.length_cons] at hfit
  have hlo : s.mem.read a = some (splitParcel s.cfg.byteOrder p).1 := by
    have hne : a ≠ a + 1#32 := by bv_omega
    rw [hmem, Memory.writeParcels, read_writeParcels_of_above _ _ a ps (d := 2) (by omega) (by omega),
      Memory.writeParcel, read_write, if_neg hne, read_write, if_pos rfl]
  have hhi : s.mem.read (a + 1#32) = some (splitParcel s.cfg.byteOrder p).2 := by
    have hnext : a + 2#32 = a + 1#32 + BitVec.ofNat 32 1 := by rw [BitVec.add_assoc]; rfl
    rw [hmem, Memory.writeParcels, hnext, read_writeParcels_of_above _ _ (a + 1#32) ps (by omega) (by omega),
      Memory.writeParcel, read_write, if_pos rfl]
  rw [readParcel_of_bytes s a _ _ hlo hhi, joinBytes_splitParcel]

/-- The parcels that were laid into memory at `a` are those a fetch from `a` reads, also past the top of the address
space (R32, R34). -/
theorem parcelsAt_of_writeParcels {s : State} {m : Memory} {a : Word} {ps : List Parcel}
    (hmem : s.mem = Memory.writeParcels s.cfg.byteOrder m a ps) (hfit : 2 * ps.length ≤ 2 ^ 32) :
    s.parcelsAt ps.length a = ps := by
  induction ps generalizing m a with
  | nil => rfl
  | cons p ps ih =>
    have htail : s.parcelsAt ps.length (a + 2#32) = ps := by
      rw [List.length_cons] at hfit
      exact ih hmem (by omega)
    simp only [List.length_cons, State.parcelsAt, readParcel_of_writeParcels hmem hfit, htail]

/-! ### The step from a state with an instruction placed -/

/-- From a state that has not ended, at an even `pc`, a step runs the instruction that the parcels at `pc` decode to
(R100). -/
theorem step_eq_exec_of_decode {s : State} {i : Instr} {rest : List Parcel} (halive : Alive s)
    (heven : s.pc.getLsbD 0 = false) (hdec : decode (s.parcelsAt 3 s.pc) = .ok (i, rest)) : step s = exec i s := by
  have hfetch : fetch s = .next i := by
    rw [fetch, heven, hdec]
    rfl
  rw [step_alive halive, hfetch]

section Placed

variable (s : State) (nbits w : Nat)

/-- A step can run from a state with an instruction placed (log 32). -/
theorem withFetchWord_alive : Alive (s.withFetchWord nbits w) :=
  ⟨rfl, by simp [State.withFetchWord]⟩

theorem withFetchWord_pc_even : (s.withFetchWord nbits w).pc.getLsbD 0 = false := by
  simp [State.withFetchWord]

/-- The fetch reads the parcels of the word that was placed (R32, log 32). -/
theorem withFetchWord_parcelsAt :
    (s.withFetchWord nbits w).parcelsAt 3 (s.withFetchWord nbits w).pc = tableParcels nbits w :=
  parcelsAt_of_writeParcels (s := s.withFetchWord nbits w) (m := s.mem) (ps := tableParcels nbits w) rfl
    (by decide : 2 * 3 ≤ 2 ^ 32)

end Placed

/-! ### The statements -/

/-- Settles O25: the fetch reads back the parcels that were placed, and they decode as the table decoder says. -/
theorem placedInstructionIsTheOneThatRuns : Obligations.PlacedInstructionIsTheOneThatRuns := by
  intro s nbits w i h
  obtain ⟨rest, hdec⟩ := decode_tableParcels_of_decodeTableWord h
  rw [← withFetchWord_parcelsAt s nbits w] at hdec
  exact step_eq_exec_of_decode (withFetchWord_alive s nbits w) (withFetchWord_pc_even s nbits w) hdec

/-- Settles O3: each parcel is put together again from its two bytes, by induction on the parcels. -/
theorem bytesInEitherOrderCarryTheParcels : Obligations.BytesInEitherOrderCarryTheParcels :=
  ⟨decodeBytes_bytesOfParcels, fun lo hi => ⟨joinBytes_little lo hi, joinBytes_big lo hi⟩⟩

/-- Settles O45: from the two bytes of the read and what the byte order makes of them. -/
theorem readParcelAssemblesTwoBytes : Obligations.ReadParcelAssemblesTwoBytes := by
  refine fun s a => ⟨readParcel_eq_none_iff s a, fun lo hi hlo hhi => ?_⟩
  rw [readParcel_of_bytes s a lo hi hlo hhi]
  refine ⟨fun ho => ?_, fun ho => ?_⟩
  · rw [ho]
    exact congrArg some (joinBytes_little lo hi)
  · rw [ho]
    exact congrArg some (joinBytes_big lo hi)

end Sys2Proof.Machine
end

section
/-! The statements of spec/30_encoding.md: how a field spells an offset, which code words the opcode table has and which
are undefined, and that the decoder and the encoder undo each other. -/

namespace Sys2Proof

/-! ### The offset field (R56, R57) -/

/-- The offset a field spells, as a number: bits 15:1 doubled, less 65536 where bit 0, the sign, is set (R56). -/
theorem brOffset_toInt (e : Parcel) :
    (brOffset e).toInt = 2 * ((e.toNat / 2 : Nat) : Int) - 65536 * ((e.toNat % 2 : Nat) : Int) := by
  have hspelt : (e.extractLsb' 0 1 ++ e.extractLsb' 1 15 ++ 0#1 : BitVec 17).toNat =
      65536 * (e.toNat % 2) + 2 * (e.toNat / 2) := by
    have := e.isLt
    rw [BitVec.toNat_append, BitVec.toNat_append, ← Nat.shiftLeft_add_eq_or_of_lt (BitVec.isLt _),
      ← Nat.shiftLeft_add_eq_or_of_lt (BitVec.isLt _)]
    simp [Nat.shiftLeft_eq, Nat.shiftRight_eq_div_pow]
    omega
  rw [brOffset, BitVec.toInt_signExtend_of_le (by decide), BitVec.toInt_eq_toNat_cond, hspelt]
  split <;> omega

/-- The formula of R57 puts the sign of the offset below its bits 15:1. -/
theorem encodeOffset_eq_append (v : Word) : encodeOffset v = v.extractLsb' 1 15 ++ v.extractLsb' 31 1 := by
  have hmask : ∀ i, (h : i < 15) → (0xfffe#16)[i + 1] = true := by decide
  apply BitVec.eq_of_getLsbD_eq
  intro i hi
  rw [BitVec.getLsbD_append]
  cases i with
  | zero => simp [encodeOffset]
  | succ i =>
    have hi' : i < 15 := by omega
    simp [encodeOffset, hi', hmask, hi, Nat.add_comm 1]

theorem encodeOffset_toNat (v : Word) :
    (encodeOffset v).toNat = 2 * (v.toNat / 2 % 32768) + v.toNat / 2 ^ 31 := by
  have := v.isLt
  rw [encodeOffset_eq_append, BitVec.toNat_append, ← Nat.shiftLeft_add_eq_or_of_lt (BitVec.isLt _)]
  simp [Nat.shiftLeft_eq, Nat.shiftRight_eq_div_pow]
  omega

/-- A 32-bit word as a signed number: less 2^32 where bit 31 is set. -/
theorem word_toInt (v : Word) : v.toInt = (v.toNat : Int) - 2 ^ 32 * ((v.toNat / 2 ^ 31 : Nat) : Int) := by
  have := v.isLt
  rw [BitVec.toInt_eq_toNat_cond]
  split <;> omega

/-- What R57 asks of an offset that has an encoding. -/
def EvenInRange (v : Word) : Prop := v.toInt % 2 = 0 ∧ -65536 ≤ v.toInt ∧ v.toInt ≤ 65534

theorem encodableOffset_iff (v : Word) : encodableOffset v = true ↔ EvenInRange v := by
  have hbit : v.getLsbD 0 = false ↔ v.toInt % 2 = 0 := by
    rw [word_toInt, BitVec.getLsbD, Nat.testBit_zero, decide_eq_false_iff_not]
    omega
  rw [encodableOffset, EvenInRange, Bool.and_eq_true, Bool.and_eq_true, beq_iff_eq, hbit, decide_eq_true_iff,
    decide_eq_true_iff, and_assoc]

theorem brOffset_evenInRange (e : Parcel) : EvenInRange (brOffset e) := by
  have := e.isLt
  unfold EvenInRange
  rw [brOffset_toInt]
  omega

/-- An even offset in range is read back from its encoding (R57). -/
theorem brOffset_encodeOffset {v : Word} (h : EvenInRange v) : brOffset (encodeOffset v) = v := by
  obtain ⟨heven, hlow, hhigh⟩ := h
  have := v.isLt
  have hhalf : (encodeOffset v).toNat / 2 = v.toNat / 2 % 32768 := by rw [encodeOffset_toNat]; omega
  have hsign : (encodeOffset v).toNat % 2 = v.toNat / 2 ^ 31 := by rw [encodeOffset_toNat]; omega
  have hbit : v.toNat / 2 ^ 31 = 0 ∨ v.toNat / 2 ^ 31 = 1 := by omega
  apply BitVec.eq_of_toInt_eq
  rw [brOffset_toInt, hhalf, hsign]
  rw [word_toInt] at *
  rcases hbit with hv | hv <;> omega

theorem brOffset_encodeOffset_iff (v : Word) : brOffset (encodeOffset v) = v ↔ EvenInRange v :=
  ⟨fun h => h ▸ brOffset_evenInRange (encodeOffset v), brOffset_encodeOffset⟩

/-- Every field is the encoding of the offset it spells (R57). -/
theorem encodeOffset_brOffset (e : Parcel) : encodeOffset (brOffset e) = e := by
  have hint := brOffset_toInt e
  have := (brOffset e).isLt
  have := e.isLt
  apply BitVec.eq_of_toNat_eq
  rw [word_toInt] at hint
  rw [encodeOffset_toNat]
  rcases Nat.mod_two_eq_zero_or_one e.toNat with he | he <;> omega

/-! ### The families of instructions, and what the encoder writes for them -/

/-- The compare-with-zero branch of an aggregation and a relation (R120). -/
def zeroInstr : Aggregation → ZeroRel → RegIdx → Word → Instr
  | .any, .eqz => .cbAnyEqz
  | .any, .nez => .cbAnyNez
  | .any, .ltz => .cbAnyLtz
  | .any, .gez => .cbAnyGez
  | .any, .gtz => .cbAnyGtz
  | .any, .lez => .cbAnyLez
  | .all, .eqz => .cbAllEqz
  | .all, .nez => .cbAllNez
  | .all, .ltz => .cbAllLtz
  | .all, .gez => .cbAllGez
  | .all, .gtz => .cbAllGtz
  | .all, .lez => .cbAllLez

/-- The register-register branch of an aggregation and a relation (R140). -/
def regInstr : Aggregation → RegRel → RegIdx → RegIdx → Word → Instr
  | .any, .eq => .cbAnyEq
  | .any, .ne => .cbAnyNe
  | .any, .lts => .cbAnyLts
  | .any, .ges => .cbAnyGes
  | .any, .ltu => .cbAnyLtu
  | .any, .geu => .cbAnyGeu
  | .all, .eq => .cbAllEq
  | .all, .ne => .cbAllNe
  | .all, .lts => .cbAllLts
  | .all, .ges => .cbAllGes
  | .all, .ltu => .cbAllLtu
  | .all, .geu => .cbAllGeu

/-- The group branch of an aggregation, a relation and a group (R170). -/
def groupInstr : Aggregation → TypeRel → Fin 4 → Word → TypeWord → Instr
  | .any, .ne, 0 => .cbTanyNeG0
  | .any, .ne, 1 => .cbTanyNeG1
  | .any, .ne, 2 => .cbTanyNeG2
  | .any, .ne, 3 => .cbTanyNeG3
  | .any, .eq, 0 => .cbTanyEqG0
  | .any, .eq, 1 => .cbTanyEqG1
  | .any, .eq, 2 => .cbTanyEqG2
  | .any, .eq, 3 => .cbTanyEqG3
  | .all, .ne, 0 => .cbTallNeG0
  | .all, .ne, 1 => .cbTallNeG1
  | .all, .ne, 2 => .cbTallNeG2
  | .all, .ne, 3 => .cbTallNeG3
  | .all, .eq, 0 => .cbTallEqG0
  | .all, .eq, 1 => .cbTallEqG1
  | .all, .eq, 2 => .cbTallEqG2
  | .all, .eq, 3 => .cbTallEqG3

/-- `FIELD_D` of a group branch (R170). -/
def groupField : TypeRel → Fin 4 → Nibble
  | .ne, g => BitVec.ofNat 4 g.val
  | .eq, g => BitVec.ofNat 4 (g.val + 4)

/-- `FIELD_B` of a group branch (R170). -/
def groupSelector : Aggregation → Nibble
  | .any => 0x1#4
  | .all => 0x2#4

theorem groupWord_eq (agg : Aggregation) (rel : TypeRel) (g : Fin 4) :
    groupWord agg rel g = codeWord (groupField rel g) 0x0#4 (groupSelector agg) 0xf#4 := by
  cases agg <;> cases rel <;> rfl

/-- Parcel 0 of `CB_BIT1` on `$rA` with the code `c` in `FIELD_C` (R161). -/
def bit1Word (ra : RegIdx) (c : Nibble) : Parcel := codeWord 0xf#4 c 0xf#4 (regField ra)

/-- Parcel 0 of `CB_BIT0` on `$rB` with the code `c` in `FIELD_C` (R162). -/
def bit0Word (rb : RegIdx) (c : Nibble) : Parcel := codeWord 0xf#4 c (regField rb) 0xf#4

/-- Parcel 0 of `CB_TMASK` on `$rD` (R175). -/
def maskWord (rd : RegIdx) : Parcel := codeWord (regField rd) 0x0#4 0x3#4 0xf#4

theorem zeroInstr_parcels (agg : Aggregation) (rel : ZeroRel) (ra : RegIdx) (v : Word) :
    (zeroInstr agg rel ra v).parcels = [zeroWord agg rel ra, encodeOffset v] := by
  cases agg <;> cases rel <;> rfl

theorem regInstr_parcels (agg : Aggregation) (rel : RegRel) (rb ra : RegIdx) (v : Word) :
    (regInstr agg rel rb ra v).parcels = [regWord agg rel rb ra, encodeOffset v] := by
  cases agg <;> cases rel <;> rfl

theorem groupInstr_parcels (agg : Aggregation) (rel : TypeRel) (g : Fin 4) (v : Word) (t : TypeWord) :
    (groupInstr agg rel g v t).parcels = [groupWord agg rel g, encodeOffset v, typeParcel t] := by
  cases agg <;> cases rel <;> fin_cases g <;> rfl

theorem zeroInstr_testedBit (agg : Aggregation) (rel : ZeroRel) (ra : RegIdx) (v : Word) :
    (zeroInstr agg rel ra v).testedBit = none := by
  cases agg <;> cases rel <;> rfl

theorem regInstr_testedBit (agg : Aggregation) (rel : RegRel) (rb ra : RegIdx) (v : Word) :
    (regInstr agg rel rb ra v).testedBit = none := by
  cases agg <;> cases rel <;> rfl

theorem groupInstr_testedBit (agg : Aggregation) (rel : TypeRel) (g : Fin 4) (v : Word) (t : TypeWord) :
    (groupInstr agg rel g v t).testedBit = none := by
  cases agg <;> cases rel <;> fin_cases g <;> rfl

/-! ### Which values of a field have a row in the spec's tables -/

/-- A field names a register, or it is the marker 0xf (R55). -/
theorem regField_or_marker (n : Nibble) : (∃ r, n = regField r) ∨ n = 0xf#4 := by
  cases h : reg? n with
  | some r => exact .inl ⟨r, (regField_of_reg? h).symm⟩
  | none => exact .inr (reg?_eq_none h)

theorem zeroSelector_cases (b : Nibble) :
    (∃ agg rel, b = zeroSelector agg rel) ∨ b = 0x6#4 ∨ b = 0x7#4 ∨ b = 0xe#4 ∨ b = 0xf#4 := by
  have h : ∀ b, (∃ agg ∈ [Aggregation.any, .all], ∃ rel ∈ [ZeroRel.eqz, .nez, .ltz, .gez, .gtz, .lez],
      b = zeroSelector agg rel) ∨ b = 0x6#4 ∨ b = 0x7#4 ∨ b = 0xe#4 ∨ b = 0xf#4 := by decide
  exact (h b).imp_left fun ⟨agg, _, rel, _, hb⟩ => ⟨agg, rel, hb⟩

theorem regSelector_cases (c : Nibble) :
    (∃ agg rel, c = regSelector agg rel) ∨ c = 0x0#4 ∨ c = 0x7#4 ∨ c = 0x8#4 ∨ c = 0xf#4 := by
  have h : ∀ c, (∃ agg ∈ [Aggregation.any, .all], ∃ rel ∈ [RegRel.eq, .ne, .lts, .ges, .ltu, .geu],
      c = regSelector agg rel) ∨ c = 0x0#4 ∨ c = 0x7#4 ∨ c = 0x8#4 ∨ c = 0xf#4 := by decide
  exact (h c).imp_left fun ⟨agg, _, rel, _, hc⟩ => ⟨agg, rel, hc⟩

theorem bitCode_cases (c : Nibble) : (∃ p, testableBit p = true ∧ c = bitCode p) ∨ c = 0xf#4 := by
  revert c
  decide

theorem groupField_cases (d : Nibble) : (∃ rel g, d = groupField rel g) ∨ 8 ≤ d.toNat := by
  have h : ∀ d : Nibble, (∃ rel ∈ [TypeRel.ne, .eq], ∃ g, d = groupField rel g) ∨ 8 ≤ d.toNat := by decide
  exact (h d).imp_left fun ⟨rel, _, g, hd⟩ => ⟨rel, g, hd⟩

theorem groupSelector_cases (b : Nibble) :
    (∃ agg, b = groupSelector agg) ∨ b = 0x3#4 ∨ (b ≠ 0x1#4 ∧ b ≠ 0x2#4 ∧ b ≠ 0x3#4) := by
  have h : ∀ b, (∃ agg ∈ [Aggregation.any, .all], b = groupSelector agg) ∨ b = 0x3#4 ∨
      (b ≠ 0x1#4 ∧ b ≠ 0x2#4 ∧ b ≠ 0x3#4) := by decide
  exact (h b).imp_left fun ⟨agg, _, hb⟩ => ⟨agg, hb⟩

theorem zeroSelector_ne_marker (agg : Aggregation) (rel : ZeroRel) : zeroSelector agg rel ≠ 0xf#4 := by
  cases agg <;> cases rel <;> decide

theorem regSelector_ne_zero (agg : Aggregation) (rel : RegRel) : regSelector agg rel ≠ 0x0#4 := by
  cases agg <;> cases rel <;> decide

theorem bitCode_ne_marker {p : Fin 32} (hp : testableBit p = true) : bitCode p ≠ 0xf#4 := by
  revert p
  decide

theorem groupField_toNat_lt (rel : TypeRel) (g : Fin 4) : (groupField rel g).toNat < 8 := by
  cases rel <;> revert g <;> decide

theorem groupField_ne_marker (rel : TypeRel) (g : Fin 4) : groupField rel g ≠ 0xf#4 := by
  intro h
  have := groupField_toNat_lt rel g
  rw [h] at this
  contradiction

/-! ### Each part of the decoder: what it answers on a row, and where it has none -/

section Parts

variable (w : Parcel)

theorem decodeZero_zeroSelector (agg : Aggregation) (rel : ZeroRel) (ra : RegIdx) :
    decodeZero w (zeroSelector agg rel) ra = .ok (.short (zeroInstr agg rel ra)) := by
  cases agg <;> cases rel <;> rfl

theorem decodeZero_eq_error_iff (b : Nibble) (ra : RegIdx) (e : DecodeError) :
    decodeZero w b ra = .error e ↔ .unknown w = e ∧ (b = 0x6#4 ∨ b = 0x7#4 ∨ b = 0xe#4 ∨ b = 0xf#4) := by
  rcases zeroSelector_cases b with ⟨agg, rel, rfl⟩ | rfl | rfl | rfl | rfl
  · rw [decodeZero_zeroSelector]
    cases agg <;> cases rel <;> simp [zeroSelector]
  all_goals simp [decodeZero]

theorem decodeReg_regSelector (agg : Aggregation) (rel : RegRel) (rb ra : RegIdx) :
    decodeReg w (regSelector agg rel) rb ra = .ok (.short (regInstr agg rel rb ra)) := by
  cases agg <;> cases rel <;> rfl

theorem decodeReg_eq_error_iff (c : Nibble) (rb ra : RegIdx) (e : DecodeError) :
    decodeReg w c rb ra = .error e ↔ .unknown w = e ∧ (c = 0x0#4 ∨ c = 0x7#4 ∨ c = 0x8#4 ∨ c = 0xf#4) := by
  rcases regSelector_cases c with ⟨agg, rel, rfl⟩ | rfl | rfl | rfl | rfl
  · rw [decodeReg_regSelector]
    cases agg <;> cases rel <;> simp [regSelector]
  all_goals simp [decodeReg]

theorem decodeShort_regs (c : Nibble) (rb ra : RegIdx) :
    decodeShort w c (regField rb) (regField ra) =
      if c = 0x0#4 then decodeZero w (regField rb) ra else decodeReg w c rb ra := by
  simp only [decodeShort, reg?_regField]

theorem decodeShort_bit1 (ra : RegIdx) {p : Fin 32} (hp : testableBit p = true) :
    decodeShort w (bitCode p) 0xf#4 (regField ra) = .ok (.short (.cbBit1 ra p)) := by
  simp [decodeShort, bitPos_bitCode p hp]

theorem decodeShort_bit0 (rb : RegIdx) {p : Fin 32} (hp : testableBit p = true) :
    decodeShort w (bitCode p) (regField rb) 0xf#4 = .ok (.short (.cbBit0 rb p)) := by
  simp [decodeShort, bitPos_bitCode p hp]

theorem decodeShort_bit1_undefined (ra : RegIdx) :
    decodeShort w 0xf#4 0xf#4 (regField ra) = .error (.unknown w) := by
  simp [decodeShort, bitPos]

theorem decodeShort_bit0_undefined (rb : RegIdx) :
    decodeShort w 0xf#4 (regField rb) 0xf#4 = .error (.unknown w) := by
  simp [decodeShort, bitPos]

theorem decodeShort_markers (c : Nibble) : decodeShort w c 0xf#4 0xf#4 = .error (.unknown w) := rfl

/-- The words with `FIELD_D` 0xf that have no instruction (R58, R62). -/
theorem decodeShort_eq_error_iff (c b a : Nibble) (e : DecodeError) :
    decodeShort w c b a = .error e ↔ .unknown w = e ∧
      ((c = 0x0#4 ∧ (b = 0x6#4 ∨ b = 0x7#4 ∨ b = 0xe#4) ∧ a ≠ 0xf#4) ∨
        ((c = 0x7#4 ∨ c = 0x8#4 ∨ c = 0xf#4) ∧ b ≠ 0xf#4 ∧ a ≠ 0xf#4) ∨
        (c = 0xf#4 ∧ b = 0xf#4 ∧ a ≠ 0xf#4) ∨ (c = 0xf#4 ∧ b ≠ 0xf#4 ∧ a = 0xf#4) ∨ (b = 0xf#4 ∧ a = 0xf#4)) := by
  rcases regField_or_marker b with ⟨rb, rfl⟩ | rfl <;> rcases regField_or_marker a with ⟨ra, rfl⟩ | rfl
  · rw [decodeShort_regs]
    split
    case isTrue hc => simp [decodeZero_eq_error_iff, regField_ne_marker, hc]
    case isFalse hc => simp [decodeReg_eq_error_iff, regField_ne_marker, hc]
  · rcases bitCode_cases c with ⟨p, hp, rfl⟩ | rfl
    · simp [decodeShort_bit0 w rb hp, regField_ne_marker, bitCode_ne_marker hp]
    · simp [decodeShort_bit0_undefined, regField_ne_marker]
  · rcases bitCode_cases c with ⟨p, hp, rfl⟩ | rfl
    · simp [decodeShort_bit1 w ra hp, regField_ne_marker, bitCode_ne_marker hp]
    · simp [decodeShort_bit1_undefined, regField_ne_marker]
  · rw [decodeShort_markers]
    simp

theorem decodeGroupAny_groupField (rel : TypeRel) (g : Fin 4) :
    decodeGroupAny w (groupField rel g) = .ok (.long fun v f => groupInstr .any rel g v (typeWord f)) := by
  cases rel <;> fin_cases g <;> rfl

theorem decodeGroupAny_undefined {d : Nibble} (hd : 8 ≤ d.toNat) : decodeGroupAny w d = .error (.unknown w) := by
  unfold decodeGroupAny
  split
  case h_9 => rfl
  all_goals omega

theorem decodeGroupAll_groupField (rel : TypeRel) (g : Fin 4) :
    decodeGroupAll w (groupField rel g) = .ok (.long fun v f => groupInstr .all rel g v (typeWord f)) := by
  cases rel <;> fin_cases g <;> rfl

theorem decodeGroupAll_undefined {d : Nibble} (hd : 8 ≤ d.toNat) : decodeGroupAll w d = .error (.unknown w) := by
  unfold decodeGroupAll
  split
  case h_9 => rfl
  all_goals omega

theorem decodeLong_groupField (agg : Aggregation) (rel : TypeRel) (g : Fin 4) :
    decodeLong w (groupField rel g) (groupSelector agg) =
      .ok (.long fun v f => groupInstr agg rel g v (typeWord f)) := by
  cases agg with
  | any => exact decodeGroupAny_groupField w rel g
  | all => exact decodeGroupAll_groupField w rel g

theorem decodeLong_undefined (agg : Aggregation) {d : Nibble} (hd : 8 ≤ d.toNat) :
    decodeLong w d (groupSelector agg) = .error (.unknown w) := by
  cases agg with
  | any => exact decodeGroupAny_undefined w hd
  | all => exact decodeGroupAll_undefined w hd

theorem decodeLong_mask (rd : RegIdx) : decodeLong w (regField rd) 0x3#4 = .ok (.long (.cbTmask rd)) := by
  simp [decodeLong]

theorem decodeLong_other (d : Nibble) {b : Nibble} (hb : b ≠ 0x1#4 ∧ b ≠ 0x2#4 ∧ b ≠ 0x3#4) :
    decodeLong w d b = .error (.notInChapter w) := by
  obtain ⟨h1, h2, h3⟩ := hb
  rw [Ne, ← BitVec.toNat_inj] at h1 h2 h3
  unfold decodeLong
  split
  case h_4 => rfl
  all_goals contradiction

/-- The words `0xD0Bf` that have no instruction (R58, R62). -/
theorem decodeLong_eq_error_iff {d : Nibble} (hd : d ≠ 0xf#4) (b : Nibble) (e : DecodeError) :
    decodeLong w d b = .error e ↔
      .unknown w = e ∧ (b = 0x1#4 ∨ b = 0x2#4) ∧ 8 ≤ d.toNat ∨
      .notInChapter w = e ∧ b ≠ 0x1#4 ∧ b ≠ 0x2#4 ∧ b ≠ 0x3#4 := by
  rcases groupSelector_cases b with ⟨agg, rfl⟩ | rfl | hb
  · rcases groupField_cases d with ⟨rel, g, rfl⟩ | h8
    · have hlt := groupField_toNat_lt rel g
      rw [decodeLong_groupField]
      cases agg <;> simp [groupSelector, hlt]
    · rw [decodeLong_undefined w agg h8]
      cases agg <;> simp [groupSelector, h8]
  · obtain ⟨rd, rfl⟩ := (regField_or_marker d).resolve_right hd
    simp [decodeLong_mask]
  · rw [decodeLong_other w d hb]
    simp [hb]

end Parts

theorem decodeForm_short (c b a : Nibble) :
    decodeForm (codeWord 0xf#4 c b a) = decodeShort (codeWord 0xf#4 c b a) c b a := by
  simp [decodeForm]

theorem decodeForm_long {d : Nibble} (hd : d ≠ 0xf#4) (b : Nibble) :
    decodeForm (codeWord d 0x0#4 b 0xf#4) = decodeLong (codeWord d 0x0#4 b 0xf#4) d b := by
  simp [decodeForm, hd]

theorem decodeForm_other {d c a : Nibble} (hd : d ≠ 0xf#4) (b : Nibble) (h : ¬(a = 0xf#4 ∧ c = 0x0#4)) :
    decodeForm (codeWord d c b a) = .error (.notInChapter (codeWord d c b a)) := by
  simp [decodeForm, hd, h]

/-! ### The words without an instruction (R62) -/

/-- The digits of a word that R62 lists as undefined. -/
def UndefinedDigits (d c b a : Nat) : Prop :=
  (d = 0xf ∧ c = 0x0 ∧ (b = 0x6 ∨ b = 0x7 ∨ b = 0xe) ∧ a ≠ 0xf) ∨
  (d = 0xf ∧ (c = 0x7 ∨ c = 0x8 ∨ c = 0xf) ∧ b ≠ 0xf ∧ a ≠ 0xf) ∨
  (d = 0xf ∧ c = 0xf ∧ b = 0xf ∧ a ≠ 0xf) ∨
  (d = 0xf ∧ c = 0xf ∧ b ≠ 0xf ∧ a = 0xf) ∨
  (d = 0xf ∧ b = 0xf ∧ a = 0xf) ∨
  (8 ≤ d ∧ d ≤ 0xe ∧ c = 0x0 ∧ (b = 0x1 ∨ b = 0x2) ∧ a = 0xf)

/-- Both of R58's answers without an instruction, by the digits of the word (R62). -/
theorem decodeForm_codeWord_eq_error_iff (d c b a : Nibble) (e : DecodeError) :
    decodeForm (codeWord d c b a) = .error e ↔
      .unknown (codeWord d c b a) = e ∧ UndefinedDigits d.toNat c.toNat b.toNat a.toNat ∨
      .notInChapter (codeWord d c b a) = e ∧ d.toNat ≠ 0xf ∧
        ¬(c.toNat = 0x0 ∧ (b.toNat = 0x1 ∨ b.toNat = 0x2 ∨ b.toNat = 0x3) ∧ a.toNat = 0xf) := by
  by_cases hd : d = 0xf#4
  · subst hd
    rw [decodeForm_short, decodeShort_eq_error_iff]
    simp [UndefinedDigits, ← BitVec.toNat_inj]
  · have hne : d.toNat ≠ 0xf := fun h => hd (BitVec.eq_of_toNat_eq h)
    by_cases hac : a = 0xf#4 ∧ c = 0x0#4
    · obtain ⟨rfl, rfl⟩ := hac
      have hdigits : UndefinedDigits d.toNat 0x0 b.toNat 0xf ↔ (b.toNat = 0x1 ∨ b.toNat = 0x2) ∧ 8 ≤ d.toNat := by
        have := d.isLt
        unfold UndefinedDigits
        omega
      rw [decodeForm_long hd, decodeLong_eq_error_iff _ hd]
      simp [← BitVec.toNat_inj, hdigits, hne]
    · have hac' : ¬(a.toNat = 0xf ∧ c.toNat = 0x0) := fun ⟨ha, hc⟩ =>
        hac ⟨BitVec.eq_of_toNat_eq ha, BitVec.eq_of_toNat_eq hc⟩
      have hdefined : ¬UndefinedDigits d.toNat c.toNat b.toNat a.toNat := by
        unfold UndefinedDigits
        omega
      have hother : ¬(c.toNat = 0x0 ∧ (b.toNat = 0x1 ∨ b.toNat = 0x2 ∨ b.toNat = 0x3) ∧ a.toNat = 0xf) :=
        fun ⟨hc, _, ha⟩ => hac' ⟨ha, hc⟩
      rw [decodeForm_other hd b hac]
      simp only [hdefined, hother, hne, Except.error.injEq, and_false, false_or, not_false_eq_true, ne_eq, and_true]

/-- The digits of a word are its fields (R51). -/
theorem fields_of_digits {w : Parcel} {d c b a : Nat} (h : w.toNat = 0x1000 * d + 0x100 * c + 0x10 * b + a)
    (hc : c < 16) (hb : b < 16) (ha : a < 16) :
    (fieldD w).toNat = d ∧ (fieldC w).toNat = c ∧ (fieldB w).toNat = b ∧ (fieldA w).toNat = a := by
  rw [fieldD_toNat, fieldC_toNat, fieldB_toNat, fieldA_toNat]
  omega

/-! ### The opcode table as a relation -/

/-- The code words of the opcode table, each with the form it decides (R58, R61). -/
inductive CodeWord : Parcel → Form → Prop where
  | zero (agg : Aggregation) (rel : ZeroRel) (ra : RegIdx) :
    CodeWord (zeroWord agg rel ra) (.short (zeroInstr agg rel ra))
  | reg (agg : Aggregation) (rel : RegRel) (rb ra : RegIdx) :
    CodeWord (regWord agg rel rb ra) (.short (regInstr agg rel rb ra))
  | bit1 (ra : RegIdx) (c : Fin 32) (hc : testableBit c = true) :
    CodeWord (bit1Word ra (bitCode c)) (.short (.cbBit1 ra c))
  | bit0 (rb : RegIdx) (c : Fin 32) (hc : testableBit c = true) :
    CodeWord (bit0Word rb (bitCode c)) (.short (.cbBit0 rb c))
  | group (agg : Aggregation) (rel : TypeRel) (g : Fin 4) :
    CodeWord (groupWord agg rel g) (.long fun v f => groupInstr agg rel g v (typeWord f))
  | mask (rd : RegIdx) : CodeWord (maskWord rd) (.long (.cbTmask rd))

/-- Every code word of the opcode table decodes to the form of its row. -/
theorem decodeForm_of_codeWord {w : Parcel} {f : Form} (h : CodeWord w f) : decodeForm w = .ok f := by
  cases h with
  | zero agg rel ra =>
    obtain ⟨rb, hb⟩ := (regField_or_marker _).resolve_right (zeroSelector_ne_marker agg rel)
    rw [zeroWord, decodeForm_short, hb, decodeShort_regs, if_pos rfl, ← hb, decodeZero_zeroSelector]
  | reg agg rel rb ra =>
    rw [regWord, decodeForm_short, decodeShort_regs, if_neg (regSelector_ne_zero agg rel), decodeReg_regSelector]
  | bit1 ra c hc => rw [bit1Word, decodeForm_short, decodeShort_bit1 _ ra hc]
  | bit0 rb c hc => rw [bit0Word, decodeForm_short, decodeShort_bit0 _ rb hc]
  | group agg rel g => rw [groupWord_eq, decodeForm_long (groupField_ne_marker rel g), decodeLong_groupField]
  | mask rd => rw [maskWord, decodeForm_long (regField_ne_marker rd), decodeLong_mask]

theorem codeWord_of_decodeShort {c b a : Nibble} {f : Form}
    (h : decodeShort (codeWord 0xf#4 c b a) c b a = .ok f) : CodeWord (codeWord 0xf#4 c b a) f := by
  rcases regField_or_marker b with ⟨rb, rfl⟩ | rfl <;> rcases regField_or_marker a with ⟨ra, rfl⟩ | rfl
  · rw [decodeShort_regs] at h
    split at h
    case isTrue hc =>
      subst hc
      rcases zeroSelector_cases (regField rb) with ⟨agg, rel, hb⟩ | hb
      · rw [hb, decodeZero_zeroSelector] at h
        cases h
        rw [hb]
        exact .zero agg rel ra
      · cases h.symm.trans ((decodeZero_eq_error_iff ..).2 ⟨rfl, hb⟩)
    case isFalse =>
      rcases regSelector_cases c with ⟨agg, rel, rfl⟩ | hc
      · rw [decodeReg_regSelector] at h
        cases h
        exact .reg agg rel rb ra
      · cases h.symm.trans ((decodeReg_eq_error_iff ..).2 ⟨rfl, hc⟩)
  · rcases bitCode_cases c with ⟨p, hp, rfl⟩ | rfl
    · rw [decodeShort_bit0 _ rb hp] at h
      cases h
      exact .bit0 rb p hp
    · cases h.symm.trans (decodeShort_bit0_undefined _ rb)
  · rcases bitCode_cases c with ⟨p, hp, rfl⟩ | rfl
    · rw [decodeShort_bit1 _ ra hp] at h
      cases h
      exact .bit1 ra p hp
    · cases h.symm.trans (decodeShort_bit1_undefined _ ra)
  · cases h

theorem codeWord_of_decodeLong {d b : Nibble} {f : Form} (hd : d ≠ 0xf#4)
    (h : decodeLong (codeWord d 0x0#4 b 0xf#4) d b = .ok f) : CodeWord (codeWord d 0x0#4 b 0xf#4) f := by
  rcases groupSelector_cases b with ⟨agg, rfl⟩ | rfl | hb
  · rcases groupField_cases d with ⟨rel, g, rfl⟩ | h8
    · rw [decodeLong_groupField] at h
      cases h
      rw [← groupWord_eq]
      exact .group agg rel g
    · cases h.symm.trans (decodeLong_undefined _ agg h8)
  · obtain ⟨rd, rfl⟩ := (regField_or_marker d).resolve_right hd
    rw [decodeLong_mask] at h
    cases h
    exact .mask rd
  · cases h.symm.trans (decodeLong_other _ d hb)

/-- Whatever parcel 0 decodes to is a row of the opcode table. -/
theorem codeWord_of_decodeForm {w : Parcel} {f : Form} (h : decodeForm w = .ok f) : CodeWord w f := by
  rw [← codeWord_fields w] at h ⊢
  generalize fieldD w = d, fieldC w = c, fieldB w = b, fieldA w = a at h ⊢
  by_cases hd : d = 0xf#4
  · subst hd
    rw [decodeForm_short] at h
    exact codeWord_of_decodeShort h
  · by_cases hac : a = 0xf#4 ∧ c = 0x0#4
    · obtain ⟨rfl, rfl⟩ := hac
      rw [decodeForm_long hd] at h
      exact codeWord_of_decodeLong hd h
    · cases h.symm.trans (decodeForm_other hd b hac)

/-! ### What a row fixes -/

namespace CodeWord

theorem formOk {w : Parcel} {f : Form} (h : CodeWord w f) : Machine.FormOk f :=
  Machine.formOk_of_decodeForm (decodeForm_of_codeWord h)

section Short

variable {w : Parcel} {mk : Word → Instr} (h : CodeWord w (.short mk))
include h

/-- `FIELD_D` 0xf marks the 32-bit forms (R59). -/
theorem fieldD_short : fieldD w = 0xf#4 := by
  cases h <;> exact fieldD_codeWord ..

theorem parcels_short (v : Word) : (mk v).parcels = [w, encodeOffset v] := by
  cases h with
  | zero agg rel ra => exact zeroInstr_parcels agg rel ra v
  | reg agg rel rb ra => exact regInstr_parcels agg rel rb ra v
  | bit1 | bit0 => rfl

theorem testableBit_short (v : Word) (c : Fin 32) (hc : (mk v).testedBit = some c) : testableBit c = true := by
  cases h with
  | zero agg rel ra => simp [zeroInstr_testedBit] at hc
  | reg agg rel rb ra => simp [regInstr_testedBit] at hc
  | bit1 _ _ hp | bit0 _ _ hp =>
    cases hc
    exact hp

theorem decode_short (e : Parcel) (rest : List Parcel) : decode (w :: e :: rest) = .ok (mk (brOffset e), rest) := by
  simp only [decode, decodeForm_of_codeWord h]

theorem decode_short_encodeOffset {v : Word} (hv : EvenInRange v) (rest : List Parcel) :
    decode (w :: encodeOffset v :: rest) = .ok (mk v, rest) := by
  rw [h.decode_short, brOffset_encodeOffset hv]

end Short

section Long

variable {w : Parcel} {mk : Word → Parcel → Instr} (h : CodeWord w (.long mk))
include h

theorem fieldD_long : fieldD w ≠ 0xf#4 := by
  cases h with
  | group agg rel g =>
    rw [groupWord_eq, fieldD_codeWord]
    exact groupField_ne_marker rel g
  | mask rd =>
    rw [maskWord, fieldD_codeWord]
    exact regField_ne_marker rd

theorem parcels_long (v : Word) (f : Parcel) : (mk v f).parcels = [w, encodeOffset v, f] := by
  cases h with
  | group agg rel g => rw [groupInstr_parcels, typeParcel_typeWord]
  | mask => rfl

theorem testedBit_long (v : Word) (f : Parcel) : (mk v f).testedBit = none := by
  cases h with
  | group agg rel g => exact groupInstr_testedBit agg rel g v _
  | mask => rfl

theorem decode_long (e f : Parcel) (rest : List Parcel) :
    decode (w :: e :: f :: rest) = .ok (mk (brOffset e) f, rest) := by
  simp only [decode, decodeForm_of_codeWord h]

theorem decode_long_encodeOffset {v : Word} (hv : EvenInRange v) (f : Parcel) (rest : List Parcel) :
    decode (w :: encodeOffset v :: f :: rest) = .ok (mk v f, rest) := by
  rw [h.decode_long, brOffset_encodeOffset hv]

end Long

end CodeWord

theorem decode_groupWord (agg : Aggregation) (rel : TypeRel) (g : Fin 4) (e : Parcel) (t : TypeWord)
    (rest : List Parcel) :
    decode (groupWord agg rel g :: e :: typeParcel t :: rest) = .ok (groupInstr agg rel g (brOffset e) t, rest) := by
  rw [(CodeWord.group agg rel g).decode_long, typeWord_typeParcel]

theorem decode_groupWord_encodeOffset (agg : Aggregation) (rel : TypeRel) (g : Fin 4) {v : Word} (hv : EvenInRange v)
    (t : TypeWord) (rest : List Parcel) :
    decode (groupWord agg rel g :: encodeOffset v :: typeParcel t :: rest) = .ok (groupInstr agg rel g v t, rest) := by
  rw [decode_groupWord, brOffset_encodeOffset hv]

/-! ### Whole instructions -/

theorem wf_iff (i : Instr) :
    i.wf = true ↔ EvenInRange i.value ∧ ∀ c, i.testedBit = some c → testableBit c = true := by
  rw [Instr.wf, Bool.and_eq_true, encodableOffset_iff]
  cases i.testedBit <;> simp

theorem encode_of_wf {i : Instr} (h : i.wf = true) : encode i = some i.parcels := by
  rw [encode, if_pos h]

theorem encode_of_not_wf {i : Instr} (h : ¬i.wf = true) : encode i = none := by
  rw [encode, if_neg h]

/-- Everything the decoder accepts: a code word, its offset field, and parcel 2 after a 48-bit one (R50, R59). -/
theorem decode_ok_inv {ps rest : List Parcel} {i : Instr} (h : decode ps = .ok (i, rest)) :
    (∃ w mk e, CodeWord w (.short mk) ∧ ps = w :: e :: rest ∧ i = mk (brOffset e)) ∨
    (∃ w mk e f, CodeWord w (.long mk) ∧ ps = w :: e :: f :: rest ∧ i = mk (brOffset e) f) := by
  unfold decode at h
  split at h
  · cases h
  · next w tail =>
    split at h
    · cases h
    · next mk hform =>
      split at h
      · cases h
        exact .inl ⟨w, mk, _, codeWord_of_decodeForm hform, rfl, rfl⟩
      · cases h
    · next mk hform =>
      split at h
      · cases h
        exact .inr ⟨w, mk, _, _, codeWord_of_decodeForm hform, rfl, rfl⟩
      · cases h

/-- The parcels of a well-formed instruction decode to it, whatever follows them. -/
theorem decode_parcels {i : Instr} (h : i.wf = true) (rest : List Parcel) :
    decode (i.parcels ++ rest) = .ok (i, rest) := by
  obtain ⟨hv, hbit⟩ := (wf_iff i).1 h
  cases i with
  | cbAnyEqz ra v | cbAnyNez ra v | cbAnyLtz ra v | cbAnyGez ra v | cbAnyGtz ra v | cbAnyLez ra v
  | cbAllEqz ra v | cbAllNez ra v | cbAllLtz ra v | cbAllGez ra v | cbAllGtz ra v | cbAllLez ra v =>
    exact (CodeWord.zero _ _ ra).decode_short_encodeOffset hv rest
  | cbAnyEq rb ra v | cbAnyNe rb ra v | cbAnyLts rb ra v | cbAnyGes rb ra v | cbAnyLtu rb ra v | cbAnyGeu rb ra v
  | cbAllEq rb ra v | cbAllNe rb ra v | cbAllLts rb ra v | cbAllGes rb ra v | cbAllLtu rb ra v | cbAllGeu rb ra v =>
    exact (CodeWord.reg _ _ rb ra).decode_short_encodeOffset hv rest
  | cbBit1 ra c v => exact (CodeWord.bit1 ra c (hbit c rfl)).decode_short_encodeOffset hv rest
  | cbBit0 rb c v => exact (CodeWord.bit0 rb c (hbit c rfl)).decode_short_encodeOffset hv rest
  | cbTanyNeG0 v t | cbTallNeG0 v t | cbTanyEqG0 v t | cbTallEqG0 v t
  | cbTanyNeG1 v t | cbTallNeG1 v t | cbTanyEqG1 v t | cbTallEqG1 v t
  | cbTanyNeG2 v t | cbTallNeG2 v t | cbTanyEqG2 v t | cbTallEqG2 v t
  | cbTanyNeG3 v t | cbTallNeG3 v t | cbTanyEqG3 v t | cbTallEqG3 v t =>
    exact decode_groupWord_encodeOffset _ _ _ hv t rest
  | cbTmask rd v f => exact (CodeWord.mask rd).decode_long_encodeOffset hv f rest

/-- What the decoder accepts is a well-formed instruction, and its own parcels stand before the rest. -/
theorem wf_parcels_of_decode {ps rest : List Parcel} {i : Instr} (h : decode ps = .ok (i, rest)) :
    i.wf = true ∧ ps = i.parcels ++ rest := by
  rw [wf_iff]
  rcases decode_ok_inv h with ⟨w, mk, e, hw, rfl, rfl⟩ | ⟨w, mk, e, f, hw, rfl, rfl⟩
  · obtain ⟨_, hval⟩ := hw.formOk (brOffset e)
    rw [hval, hw.parcels_short, encodeOffset_brOffset]
    exact ⟨⟨brOffset_evenInRange e, hw.testableBit_short _⟩, rfl⟩
  · obtain ⟨_, hval⟩ := hw.formOk (brOffset e) f
    rw [hval, hw.parcels_long, encodeOffset_brOffset, hw.testedBit_long]
    exact ⟨⟨brOffset_evenInRange e, nofun⟩, rfl⟩

/-! ### Rows by mask and match (R61) -/

theorem fieldD_and (w m : Parcel) : fieldD (w &&& m) = fieldD w &&& fieldD m := BitVec.extractLsb'_and
theorem fieldC_and (w m : Parcel) : fieldC (w &&& m) = fieldC w &&& fieldC m := BitVec.extractLsb'_and
theorem fieldB_and (w m : Parcel) : fieldB (w &&& m) = fieldB w &&& fieldB m := BitVec.extractLsb'_and
theorem fieldA_and (w m : Parcel) : fieldA (w &&& m) = fieldA w &&& fieldA m := BitVec.extractLsb'_and

/-- A field that the mask keeps whole is that of the match word. -/
theorem field_of_masked {field : Parcel → Nibble} (hand : ∀ w m, field (w &&& m) = field w &&& field m)
    {w m x : Parcel} {n : Nibble} (h : w &&& m = x) (hm : field m = 0xf#4) (hx : field x = n) : field w = n := by
  have hkeep : field w &&& 0xf#4 = field w := BitVec.and_allOnes
  rw [← hx, ← h, hand, hm, hkeep]

theorem eq_regField {n : Nibble} {r : RegIdx} (h : n.toNat = r.val) : n = regField r :=
  BitVec.eq_of_toNat_eq (h.trans (regField_toNat r).symm)

theorem eq_codeWord {w : Parcel} {d c b a : Nibble} (hd : fieldD w = d) (hc : fieldC w = c) (hb : fieldB w = b)
    (ha : fieldA w = a) : w = codeWord d c b a := by
  rw [← hd, ← hc, ← hb, ← ha, codeWord_fields]

section Rows

variable {w : Parcel} {ra rb rd : RegIdx}

theorem eq_zeroWord_of_masked (agg : Aggregation) (rel : ZeroRel) (ha : w.toNat % 0x10 = ra.val)
    (h : w &&& 0xfff0 = zeroWord agg rel 0) : w = zeroWord agg rel ra :=
  eq_codeWord (field_of_masked fieldD_and h rfl (fieldD_codeWord ..))
    (field_of_masked fieldC_and h rfl (fieldC_codeWord ..)) (field_of_masked fieldB_and h rfl (fieldB_codeWord ..))
    (eq_regField ((fieldA_toNat w).trans ha))

theorem eq_regWord_of_masked (agg : Aggregation) (rel : RegRel) (ha : w.toNat % 0x10 = ra.val)
    (hb : w.toNat / 0x10 % 0x10 = rb.val) (h : w &&& 0xff00 = regWord agg rel 0 0) : w = regWord agg rel rb ra :=
  eq_codeWord (field_of_masked fieldD_and h rfl (fieldD_codeWord ..))
    (field_of_masked fieldC_and h rfl (fieldC_codeWord ..)) (eq_regField ((fieldB_toNat w).trans hb))
    (eq_regField ((fieldA_toNat w).trans ha))

theorem eq_bit1Word_of_masked {c : Nibble} (hc : w.toNat / 0x100 % 0x10 = c.toNat) (ha : w.toNat % 0x10 = ra.val)
    (h : w &&& 0xf0f0 = 0xf0f0) : w = bit1Word ra c :=
  eq_codeWord (field_of_masked fieldD_and h rfl rfl) (BitVec.eq_of_toNat_eq ((fieldC_toNat w).trans hc))
    (field_of_masked fieldB_and h rfl rfl) (eq_regField ((fieldA_toNat w).trans ha))

theorem eq_bit0Word_of_masked {c : Nibble} (hc : w.toNat / 0x100 % 0x10 = c.toNat)
    (hb : w.toNat / 0x10 % 0x10 = rb.val) (h : w &&& 0xf00f = 0xf00f) : w = bit0Word rb c :=
  eq_codeWord (field_of_masked fieldD_and h rfl rfl) (BitVec.eq_of_toNat_eq ((fieldC_toNat w).trans hc))
    (eq_regField ((fieldB_toNat w).trans hb)) (field_of_masked fieldA_and h rfl rfl)

theorem eq_maskWord_of_masked (hd : w.toNat / 0x1000 = rd.val) (h : w &&& 0x0fff = 0x003f) : w = maskWord rd :=
  eq_codeWord (eq_regField ((fieldD_toNat w).trans hd)) (field_of_masked fieldC_and h rfl rfl)
    (field_of_masked fieldB_and h rfl rfl) (field_of_masked fieldA_and h rfl rfl)

variable (e : Parcel) (rest : List Parcel)

theorem decode_zeroRow (ha : w.toNat % 0x10 = ra.val) (agg : Aggregation) (rel : ZeroRel)
    (h : w &&& 0xfff0 = zeroWord agg rel 0) :
    decode (w :: e :: rest) = .ok (zeroInstr agg rel ra (brOffset e), rest) := by
  rw [eq_zeroWord_of_masked agg rel ha h]
  exact (CodeWord.zero agg rel ra).decode_short e rest

theorem decode_regRow (ha : w.toNat % 0x10 = ra.val) (hb : w.toNat / 0x10 % 0x10 = rb.val) (agg : Aggregation)
    (rel : RegRel) (h : w &&& 0xff00 = regWord agg rel 0 0) :
    decode (w :: e :: rest) = .ok (regInstr agg rel rb ra (brOffset e), rest) := by
  rw [eq_regWord_of_masked agg rel ha hb h]
  exact (CodeWord.reg agg rel rb ra).decode_short e rest

end Rows

/-! ### The statements -/

/-- Settles O1: each instruction's first parcel is a code word of the opcode table, and its offset reads back. -/
theorem decodeAfterEncodeGivesTheInstruction : Obligations.DecodeAfterEncodeGivesTheInstruction :=
  fun i h => ⟨i.parcels, encode_of_wf h, decode_parcels h⟩

/-- Settles O2: by the rows of the opcode table, the only words the decoder accepts. -/
theorem encodeAfterDecodeGivesTheParcels : Obligations.EncodeAfterDecodeGivesTheParcels := by
  intro ps i rest h
  obtain ⟨hwf, hps⟩ := wf_parcels_of_decode h
  exact ⟨hwf, i.parcels, encode_of_wf hwf, hps⟩

/-- Settles O4: from the offset as a number. -/
theorem offsetFieldSpellsASignedEvenOffset : Obligations.OffsetFieldSpellsASignedEvenOffset := by
  intro e
  obtain ⟨heven, hlow, hhigh⟩ := brOffset_evenInRange e
  refine ⟨?_, brOffset_toInt e, heven, hlow, hhigh⟩
  have hsign : e.extractLsb' 0 1 = BitVec.ofBool (e.getLsbD 0) := by
    ext i hi
    simp [show i = 0 by omega]
  rw [brOffset, hsign]

/-- Settles O5: the offset and its field are each recovered from the other, and a well-formed instruction's offset is
one that is. -/
theorem offsetRoundTripsExactlyWhenEncodable : Obligations.OffsetRoundTripsExactlyWhenEncodable := by
  refine ⟨fun v => ⟨rfl, brOffset_encodeOffset_iff v⟩, encodeOffset_brOffset, fun i h => encode_of_not_wf fun hwf => ?_⟩
  obtain ⟨hv, _⟩ := (wf_iff i).1 hwf
  exact h (brOffset_encodeOffset hv)

/-- Settles O7: part by part of the decoder, the field values without a row. -/
theorem undefinedCodeWordsAreExactlyThese : Obligations.UndefinedCodeWordsAreExactlyThese := by
  intro w d c b a h _ hc hb ha
  obtain ⟨rfl, rfl, rfl, rfl⟩ := fields_of_digits h hc hb ha
  have herr := decodeForm_codeWord_eq_error_iff (fieldD w) (fieldC w) (fieldB w) (fieldA w)
  rw [codeWord_fields] at herr
  refine ⟨(herr _).trans ?_, (herr _).trans ?_⟩
  · simp [UndefinedDigits]
  · simp

/-- Settles O8: a masked match fixes the selectors, and the digits left over name the registers. -/
theorem compareRowsDecode : Obligations.CompareRowsDecode := by
  intro w0 e rest ra ha
  have zero := decode_zeroRow e rest ha
  refine ⟨zero .any .eqz, zero .any .nez, zero .any .ltz, zero .any .gez, zero .any .gtz, zero .any .lez,
    zero .all .eqz, zero .all .nez, zero .all .ltz, zero .all .gez, zero .all .gtz, zero .all .lez, fun rb hb => ?_⟩
  have reg := decode_regRow e rest ha hb
  exact ⟨reg .any .eq, reg .any .ne, reg .any .lts, reg .any .ges, reg .any .ltu, reg .any .geu,
    reg .all .eq, reg .all .ne, reg .all .lts, reg .all .ges, reg .all .ltu, reg .all .geu⟩

/-- Settles O9: the marker 0xf in one register field makes the word a bit test, whatever code `FIELD_C` holds. -/
theorem bitTestRowsDecode : Obligations.BitTestRowsDecode := by
  intro w0 e rest c p r hc hp
  obtain ⟨rfl, htest⟩ := bitCode_bitPos c p hp
  refine ⟨fun h ha => ?_, fun h hb => ?_⟩
  · rw [eq_bit1Word_of_masked hc ha h]
    exact (CodeWord.bit1 r p htest).decode_short e rest
  · rw [eq_bit0Word_of_masked hc hb h]
    exact (CodeWord.bit0 r p htest).decode_short e rest

/-- Settles O10: the sixteen group words by aggregation, relation and group, and the mask word by its three low digits.
-/
theorem typeTestRowsDecode : Obligations.TypeTestRowsDecode := by
  intro e f rest t hf
  obtain rfl : f = typeParcel t := BitVec.eq_of_toNat_eq (hf.trans (typeParcel_toNat t).symm)
  have group := fun agg rel g => decode_groupWord agg rel g e t rest
  refine ⟨group .any .ne 0, group .all .ne 0, group .any .ne 1, group .all .ne 1, group .any .ne 2, group .all .ne 2,
    group .any .ne 3, group .all .ne 3, group .any .eq 0, group .all .eq 0, group .any .eq 1, group .all .eq 1,
    group .any .eq 2, group .all .eq 2, group .any .eq 3, group .all .eq 3, fun w0 rd h hd => ?_⟩
  rw [eq_maskWord_of_masked hd h]
  exact (CodeWord.mask rd).decode_long e _ rest

/-- Settles O11: `FIELD_D` of a code word says which form it is, and the form fixes the length. -/
theorem decodedLengthIsFourOrSixBytes : Obligations.DecodedLengthIsFourOrSixBytes := by
  intro w0 ps i rest h
  have hmarker : w0.toNat / 0x1000 = 0xf ↔ fieldD w0 = 0xf#4 := by
    rw [← BitVec.toNat_inj, fieldD_toNat]
    rfl
  simp only [hmarker]
  rcases decode_ok_inv h with ⟨w, mk, e, hw, hps, rfl⟩ | ⟨w, mk, e, f, hw, hps, rfl⟩
  · cases hps
    obtain ⟨hlen, _⟩ := hw.formOk (brOffset e)
    refine ⟨?_, hlen.trans (if_pos hw.fieldD_short).symm⟩
    simp only [hlen, List.length_cons]
    omega
  · cases hps
    obtain ⟨hlen, _⟩ := hw.formOk (brOffset e) f
    refine ⟨?_, hlen.trans (if_neg hw.fieldD_long).symm⟩
    simp only [hlen, List.length_cons]
    omega

/-- Settles O6: the table by evaluation; the two bit-test words with the code 0xf have no row. -/
theorem bitSelectorTable : Obligations.BitSelectorTable := by
  have hbit1 : ∀ r : RegIdx, BitVec.ofNat 16 (0xfff0 + r.val) = bit1Word r 0xf#4 := by decide
  have hbit0 : ∀ r : RegIdx, BitVec.ofNat 16 (0xff0f + 0x10 * r.val) = bit0Word r 0xf#4 := by decide
  refine ⟨by decide, by decide, fun r => ⟨?_, ?_⟩⟩
  · rw [hbit1, bit1Word, decodeForm_short, decodeShort_bit1_undefined]
  · rw [hbit0, bit0Word, decodeForm_short, decodeShort_bit0_undefined]

/-- Settles O12: each word evaluates to the instruction the spec says. -/
theorem writtenOutWordsDecode : Obligations.WrittenOutWordsDecode :=
  ⟨rfl, rfl, rfl, rfl, rfl, rfl, rfl, rfl, rfl, rfl, rfl⟩

end Sys2Proof
end

section
/-! The statements of spec/40_cbranch_common.md: in which order a fetch can fail, what type handling answers, how many
lanes are compared and which bits each lane is, and how the any and the all forms of the relations answer each other. -/

namespace Sys2Proof

/-! ### Negated relations (R110) -/

def ZeroRel.negated : ZeroRel → ZeroRel
  | .eqz => .nez
  | .nez => .eqz
  | .ltz => .gez
  | .gez => .ltz
  | .gtz => .lez
  | .lez => .gtz

def RegRel.negated : RegRel → RegRel
  | .eq => .ne
  | .ne => .eq
  | .lts => .ges
  | .ges => .lts
  | .ltu => .geu
  | .geu => .ltu

def TypeRel.negated : TypeRel → TypeRel
  | .ne => .eq
  | .eq => .ne

/-- Whether a relation holds between a lane and itself (R112). -/
def RegRel.holdsOfEqual : RegRel → Bool
  | .eq | .ges | .geu => true
  | .ne | .lts | .ltu => false

end Sys2Proof

namespace Sys2Proof.Machine

theorem zeroHolds_negated {w : Nat} (rel : ZeroRel) (a : BitVec w) : zeroHolds rel.negated a = !zeroHolds rel a := by
  cases rel <;> simp [ZeroRel.negated, zeroHolds, bne, ← decide_not]

theorem regHolds_negated {w : Nat} (rel : RegRel) (b a : BitVec w) :
    regHolds rel.negated b a = !regHolds rel b a := by
  cases rel <;> simp [RegRel.negated, regHolds, bne, ← decide_not]

theorem typeHolds_negated (rel : TypeRel) (s : State) (p : RegIdx × Nibble) :
    typeHolds rel.negated s p = !typeHolds rel s p := by
  cases rel <;> simp [TypeRel.negated, typeHolds]

theorem regHolds_self {w : Nat} (rel : RegRel) (a : BitVec w) : regHolds rel a a = rel.holdsOfEqual := by
  cases rel <;> simp [RegRel.holdsOfEqual, regHolds]

/-! ### The parcels of a fetch, and why they are no instruction (R35, R100) -/

theorem parcelsAt_of_missing {s : State} {a : Word} (h : s.readParcel a = none) (n : Nat) : s.parcelsAt n a = [] := by
  cases n with
  | zero => rfl
  | succ n => rw [State.parcelsAt, h]

theorem parcelsAt_of_present {s : State} {a : Word} {p : Parcel} (h : s.readParcel a = some p) (n : Nat) :
    s.parcelsAt (n + 1) a = p :: s.parcelsAt n (a + 2#32) := by
  rw [State.parcelsAt, h]

theorem holdsParcels_cons_inv {s : State} {a : Word} {p : Parcel} {ps : List Parcel} (h : HoldsParcels s a (p :: ps)) :
    s.readParcel a = some p ∧ HoldsParcels s (a + 2#32) ps := by
  refine ⟨by simpa using h 0 (Nat.zero_lt_succ _), fun k hk => ?_⟩
  have haddr : a + 2#32 + BitVec.ofNat 32 (2 * k) = a + BitVec.ofNat 32 (2 * (k + 1)) := by
    rw [Nat.mul_succ, Nat.add_comm (2 * k), BitVec.ofNat_add, BitVec.add_assoc]
  rw [haddr]
  exact h (k + 1) (Nat.succ_lt_succ hk)

/-- A fetch reads the parcels that memory holds, and then what follows them (R32). -/
theorem parcelsAt_of_holdsParcels {s : State} {a : Word} {ps : List Parcel} {n : Nat}
    (h : HoldsParcels s a ps) (hn : ps.length ≤ n) : ∃ rest, s.parcelsAt n a = ps ++ rest := by
  induction ps generalizing a n with
  | nil => exact ⟨_, rfl⟩
  | cons p ps ih =>
    obtain ⟨hp, hps⟩ := holdsParcels_cons_inv h
    cases n with
    | zero => cases hn
    | succ n =>
      obtain ⟨rest, hrest⟩ := ih hps (Nat.le_of_succ_le_succ hn)
      exact ⟨rest, by rw [parcelsAt_of_present hp, hrest, List.cons_append]⟩

/-- What decodes with no parcel left over decodes alike before any others. -/
theorem decode_append {ps : List Parcel} {i : Instr} (h : decode ps = .ok (i, [])) (rest : List Parcel) :
    decode (ps ++ rest) = .ok (i, rest) := by
  obtain ⟨hwf, rfl⟩ := wf_parcels_of_decode h
  rw [List.append_nil]
  exact decode_parcels hwf rest

/-- A word without an instruction is answered by name (R58). -/
theorem decodeForm_error_cases {w0 : Parcel} {err : DecodeError} (h : decodeForm w0 = .error err) :
    err = .unknown w0 ∨ err = .notInChapter w0 := by
  rw [← codeWord_fields w0, decodeForm_codeWord_eq_error_iff, codeWord_fields] at h
  rcases h with ⟨rfl, _⟩ | ⟨rfl, _⟩
  · exact .inl rfl
  · exact .inr rfl

theorem decode_of_decodeForm_error {w0 : Parcel} {err : DecodeError} (h : decodeForm w0 = .error err)
    (rest : List Parcel) : decode (w0 :: rest) = .error err := by
  rw [decode, h]

theorem decode_short_ok {w0 : Parcel} {mk : Word → Instr} (h : decodeForm w0 = .ok (.short mk)) (e : Parcel) :
    decode [w0, e] = .ok (mk (brOffset e), []) := by
  rw [decode, h]

theorem decode_short_missing {w0 : Parcel} {mk : Word → Instr} (h : decodeForm w0 = .ok (.short mk)) :
    decode [w0] = .error .missingParcel := by
  rw [decode, h]

theorem decode_long_ok {w0 : Parcel} {mk : Word → Parcel → Instr} (h : decodeForm w0 = .ok (.long mk)) (e f : Parcel) :
    decode [w0, e, f] = .ok (mk (brOffset e) f, []) := by
  rw [decode, h]

theorem decode_long_missing_both {w0 : Parcel} {mk : Word → Parcel → Instr} (h : decodeForm w0 = .ok (.long mk)) :
    decode [w0] = .error .missingParcel := by
  rw [decode, h]

theorem decode_long_missing_last {w0 : Parcel} {mk : Word → Parcel → Instr} (h : decodeForm w0 = .ok (.long mk))
    (e : Parcel) : decode [w0, e] = .error .missingParcel := by
  rw [decode, h]

/-! ### The step, case by case of the fetch (R100, R205) -/

theorem add_two_add_two (a : Word) : a + 2#32 + 2#32 = a + 4#32 := BitVec.add_assoc a 2#32 2#32

section Fetch

variable {s : State} (halive : Alive s)
include halive

theorem step_of_odd_pc (hodd : s.pc.getLsbD 0 = true) : step s = .refused (.misalignedPc s.pc) := by
  rw [step_alive halive, fetch, if_pos hodd]

variable (heven : s.pc.getLsbD 0 = false)
include heven

theorem step_stuck_of_decode (hdec : decode (s.parcelsAt 3 s.pc) = .error .missingParcel) :
    step s = .fault (.stuck s.pc) := by
  have hfetch : fetch s = .fault (.stuck s.pc) := by
    rw [fetch, heven, hdec]
    rfl
  rw [step_alive halive, hfetch]

/-- A step runs the instruction that memory holds at `pc` (R32, R100). -/
theorem step_eq_exec_of_holdsParcels {ps : List Parcel} {i : Instr} (hmem : HoldsParcels s s.pc ps)
    (hdec : decode ps = .ok (i, [])) : step s = exec i s := by
  have hlen : ps.length ≤ 3 := by
    obtain ⟨used, e, hps, _, _, _, h⟩ := decode_consumes hdec
    rw [List.append_nil] at hps
    subst hps
    omega
  obtain ⟨rest, hrest⟩ := parcelsAt_of_holdsParcels hmem hlen
  refine step_eq_exec_of_decode (rest := rest) halive heven ?_
  rw [hrest, decode_append hdec]

theorem step_of_missing_parcel0 (h0 : s.readParcel s.pc = none) : step s = .fault (.stuck s.pc) := by
  refine step_stuck_of_decode halive heven ?_
  rw [parcelsAt_of_missing h0, decode]

variable {w0 : Parcel} (h0 : s.readParcel s.pc = some w0)
include h0

theorem step_of_undefined_word {err : DecodeError} (herr : decodeForm w0 = .error err) :
    step s = .refused (.unknownEncoding s.pc w0) := by
  have hdec : decode (s.parcelsAt 3 s.pc) = .error err := by
    rw [parcelsAt_of_present h0, decode_of_decodeForm_error herr]
  have hfetch : fetch s = .refused (.unknownEncoding s.pc w0) := by
    rw [fetch, heven, hdec]
    rcases decodeForm_error_cases herr with rfl | rfl <;> rfl
  rw [step_alive halive, hfetch]

theorem step_of_short {mk : Word → Instr} (hform : decodeForm w0 = .ok (.short mk)) :
    (s.readParcel (s.pc + 2#32) = none → step s = .fault (.stuck s.pc)) ∧
    ∀ e, s.readParcel (s.pc + 2#32) = some e → step s = exec (mk (brOffset e)) s := by
  refine ⟨fun h1 => step_stuck_of_decode halive heven ?_, fun e h1 => ?_⟩
  · rw [parcelsAt_of_present h0, parcelsAt_of_missing h1, decode_short_missing hform]
  · have hmem : HoldsParcels s s.pc [w0, e] := holdsParcels_cons h0 (holdsParcels_cons h1 (holdsParcels_nil s _))
    exact step_eq_exec_of_holdsParcels halive heven hmem (decode_short_ok hform e)

theorem step_of_long {mk : Word → Parcel → Instr} (hform : decodeForm w0 = .ok (.long mk)) :
    (s.readParcel (s.pc + 2#32) = none ∨ s.readParcel (s.pc + 4#32) = none → step s = .fault (.stuck s.pc)) ∧
    ∀ e f, s.readParcel (s.pc + 2#32) = some e → s.readParcel (s.pc + 4#32) = some f →
      step s = exec (mk (brOffset e) f) s := by
  rw [← add_two_add_two]
  refine ⟨fun hmissing => step_stuck_of_decode halive heven ?_, fun e f h1 h2 => ?_⟩
  · rw [parcelsAt_of_present h0]
    cases h1 : s.readParcel (s.pc + 2#32) with
    | none => rw [parcelsAt_of_missing h1, decode_long_missing_both hform]
    | some e =>
      have h2 : s.readParcel (s.pc + 2#32 + 2#32) = none := hmissing.resolve_left (by simp [h1])
      rw [parcelsAt_of_present h1, parcelsAt_of_missing h2, decode_long_missing_last hform]
  · have hmem : HoldsParcels s s.pc [w0, e, f] :=
      holdsParcels_cons h0 (holdsParcels_cons h1 (holdsParcels_cons h2 (holdsParcels_nil s _)))
    exact step_eq_exec_of_holdsParcels halive heven hmem (decode_long_ok hform e f)

end Fetch

/-! ### Type handling (R102) -/

theorem typeRule_of_no_entries {c : Config} (h : c.typeRules = []) (left : Option TypeCode) (right : TypeCode) :
    typeRule c left right = defaultTypeRule c left right := by
  rw [typeRule, h, List.find?_nil]

theorem defaultTypeRule_same (c : Config) (t : TypeCode) :
    defaultTypeRule c (some t) t = .compare (typeTable c t) :=
  if_pos rfl

theorem defaultTypeRule_of_ne (c : Config) {tb ta : TypeCode} (h : tb ≠ ta) :
    defaultTypeRule c (some tb) ta = .excType :=
  if_neg h

theorem typeRule_cons_same (c : Config) (e : TypeRuleEntry) :
    typeRule { c with typeRules := e :: c.typeRules } e.left e.right = e.ruling := by
  simp [typeRule]

theorem typeRule_cons_of_ne (c : Config) (e : TypeRuleEntry) {left : Option TypeCode} {right : TypeCode}
    (h : (left, right) ≠ (e.left, e.right)) :
    typeRule { c with typeRules := e :: c.typeRules } left right = typeRule c left right := by
  have hskip : decide (e.left = left ∧ e.right = right) = false :=
    decide_eq_false fun ⟨hl, hr⟩ => h (by rw [hl, hr])
  simp only [typeRule, List.find?_cons, hskip]
  rfl

/-! ### The number of lanes (R103) -/

theorem nLanes_of_scalar (s : State) {d : Descriptor} (h : d.shape = .scalar) : nLanes s d = 1 := by
  rw [nLanes, h]

theorem nLanes_of_vector (s : State) {d : Descriptor} (h : d.shape = .vector) :
    nLanes s d = activeLanes s.cfg d s.vend := by
  rw [nLanes, h]

theorem activeLanes_of_no_entries {c : Config} (h : c.laneCounts = []) (d : Descriptor) (vend : Nat) :
    activeLanes c d vend = cutToBound c d.width (Config.freeLanes d vend) := by
  rw [activeLanes, h, List.find?_nil]

theorem activeLanes_cons_same (c : Config) (e : LaneCountEntry) :
    activeLanes { c with laneCounts := e :: c.laneCounts } e.desc e.vend = cutToBound c e.desc.width e.lanes := by
  simp [activeLanes, cutToBound, Config.vlenBits]

theorem activeLanes_cons_of_ne (c : Config) (e : LaneCountEntry) {d : Descriptor} {vend : Nat}
    (h : (d, vend) ≠ (e.desc, e.vend)) :
    activeLanes { c with laneCounts := e :: c.laneCounts } d vend = activeLanes c d vend := by
  have hskip : decide (e.desc = d ∧ e.vend = vend) = false :=
    decide_eq_false fun ⟨hd, hv⟩ => h (by rw [hd, hv])
  simp only [activeLanes, List.find?_cons, hskip]
  rfl

/-! ### The bits of a lane (R108) -/

/-- Bit `n` of the number that words spell is bit `n mod 32` of word `n / 32`. -/
theorem testBit_wordsToNat {ws : List Word} {n : Nat} {word : Word} (h : ws[n / 32]? = some word) :
    (wordsToNat ws).testBit n = word.getLsbD (n % 32) := by
  induction ws generalizing n with
  | nil => simp at h
  | cons w ws ih =>
    rw [wordsToNat, Nat.add_comm, Nat.testBit_two_pow_mul_add _ w.isLt]
    split_ifs with hn
    · rw [Nat.div_eq_of_lt hn] at h
      obtain rfl : w = word := by simpa using h
      rw [Nat.mod_eq_of_lt hn]
      rfl
    · have hdiv : n / 32 = (n - 32) / 32 + 1 := by omega
      have hmod : n % 32 = (n - 32) % 32 := by omega
      rw [hdiv, List.getElem?_cons_succ] at h
      rw [hmod, ih h]

/-- The bits of a lane are those of the register value from `w * i` on (R108). -/
theorem getLsbD_lane {v : RegValue} {w i j : Nat} (hfits : w * i + w ≤ v.width) (hj : j < w) :
    (lane v w i).getLsbD j = v.bits.testBit (w * i + j) := by
  rw [lane_of_fits hfits, BitVec.getLsbD_ofNat, Nat.testBit_shiftRight]
  simp [hj]

/-- A lane that lies in its register value takes each of its bits from the word that has it (R12, R108). -/
theorem getLsbD_lane_eq_word {v : RegValue} {w i j : Nat} (hfits : w * i + w ≤ v.width) (hj : j < w) :
    ∃ word, (v.scalar :: v.upper)[(w * i + j) / 32]? = some word ∧
      (lane v w i).getLsbD j = word.getLsbD ((w * i + j) % 32) := by
  have hlt : (w * i + j) / 32 < (v.scalar :: v.upper).length := by
    rw [RegValue.width] at hfits
    rw [List.length_cons]
    omega
  have hword := List.getElem?_eq_getElem hlt
  exact ⟨_, hword, by rw [getLsbD_lane hfits hj, RegValue.bits, testBit_wordsToNat hword]⟩

/-- The 32-bit lane 0 is the scalar part (R12, R108). -/
theorem lane_scalar (v : RegValue) : lane v 32 0 = v.scalar := by
  have hfits : 32 * 0 + 32 ≤ v.width := by
    rw [RegValue.width]
    omega
  refine BitVec.eq_of_getLsbD_eq fun j hj => ?_
  obtain ⟨word, hword, hbit⟩ := getLsbD_lane_eq_word hfits hj
  have hdiv : (32 * 0 + j) / 32 = 0 := by omega
  have hmod : (32 * 0 + j) % 32 = j := by omega
  rw [hdiv] at hword
  obtain rfl : v.scalar = word := by simpa using hword
  rw [hbit, hmod]

/-! ### What the branch families execute -/

theorem exec_zeroInstr (agg : Aggregation) (rel : ZeroRel) (ra : RegIdx) (v : Word) (s : State) :
    exec (zeroInstr agg rel ra v) s = compareZero agg rel ra v s := by
  cases agg <;> cases rel <;> rfl

theorem exec_regInstr (agg : Aggregation) (rel : RegRel) (rb ra : RegIdx) (v : Word) (s : State) :
    exec (regInstr agg rel rb ra v) s = compareReg agg rel rb ra v s := by
  cases agg <;> cases rel <;> rfl

theorem exec_groupInstr (agg : Aggregation) (rel : TypeRel) (g : Fin 4) (v : Word) (t : TypeWord) (s : State) :
    exec (groupInstr agg rel g v t) s = groupTest agg rel g v t s := by
  cases agg <;> cases rel <;> fin_cases g <;> rfl

/-- The six relations with zero, in the order of the opcode table (R120). -/
def zeroRels : List ZeroRel := [.eqz, .nez, .ltz, .gez, .gtz, .lez]

/-- The six relations between registers, in the order of the opcode table (R140). -/
def regRels : List RegRel := [.eq, .ne, .lts, .ges, .ltu, .geu]

/-- The relation and the group of the eight group branches of one aggregation (R170). -/
def groupKinds : List (TypeRel × Fin 4) :=
  [(.ne, 0), (.ne, 1), (.ne, 2), (.ne, 3), (.eq, 0), (.eq, 1), (.eq, 2), (.eq, 3)]

theorem zeroForms_eq : zeroForms = zeroRels.map (zeroInstr .any) ++ zeroRels.map (zeroInstr .all) := rfl

theorem regForms_eq : regForms = regRels.map (regInstr .any) ++ regRels.map (regInstr .all) := rfl

theorem mem_zeroForms {mk : RegIdx → Word → Instr} (h : mk ∈ zeroForms) : ∃ agg rel, mk = zeroInstr agg rel := by
  rw [zeroForms_eq, List.mem_append, List.mem_map, List.mem_map] at h
  rcases h with ⟨rel, _, rfl⟩ | ⟨rel, _, rfl⟩
  · exact ⟨.any, rel, rfl⟩
  · exact ⟨.all, rel, rfl⟩

theorem mem_regForms {mk : RegIdx → RegIdx → Word → Instr} (h : mk ∈ regForms) : ∃ agg rel, mk = regInstr agg rel := by
  rw [regForms_eq, List.mem_append, List.mem_map, List.mem_map] at h
  rcases h with ⟨rel, _, rfl⟩ | ⟨rel, _, rfl⟩
  · exact ⟨.any, rel, rfl⟩
  · exact ⟨.all, rel, rfl⟩

section Compare

variable {s : State} {d : Descriptor}

/-- Where type handling answers a descriptor, a compare with zero is a branch on its lanes (R102, R120). -/
theorem compareZero_of_compare {ra : RegIdx} (h : typeRule s.cfg none (s.typeOf ra) = .compare (some d))
    (agg : Aggregation) (rel : ZeroRel) (v : Word) :
    compareZero agg rel ra v s =
      branchIf (aggregate agg (List.range (nLanes s d)) (zeroLane agg rel d (s.value ra))) 4 v s := by
  rw [compareZero, typeCheck1, h]

/-- Where type handling answers a descriptor, a compare of registers is a branch on their lanes (R102, R140). -/
theorem compareReg_of_compare {rb ra : RegIdx}
    (h : typeRule s.cfg (some (s.typeOf rb)) (s.typeOf ra) = .compare (some d))
    (agg : Aggregation) (rel : RegRel) (v : Word) :
    compareReg agg rel rb ra v s =
      branchIf (aggregate agg (List.range (nLanes s d)) (regLane agg rel d (s.value rb) (s.value ra))) 4 v s := by
  rw [compareReg, typeCheck2, h]

theorem zeroLane_of_fixed (hfixed : d.kind = .fixed) (agg : Aggregation) (rel : ZeroRel) (v : RegValue) (i : Nat) :
    zeroLane agg rel d v i = zeroHolds rel (lane v d.width i) := by
  rw [zeroLane, hfixed]

theorem regLane_of_fixed (hfixed : d.kind = .fixed) (agg : Aggregation) (rel : RegRel) (vb va : RegValue) (i : Nat) :
    regLane agg rel d vb va i = regHolds rel (lane vb d.width i) (lane va d.width i) := by
  rw [regLane, hfixed]

/-! ### Negated relations: one branch is taken exactly when the other is not (R110) -/

theorem opposite_of_branchIf {i j : Instr} {c : Bool} {len v : Word} (hi : exec i s = branchIf c len v s)
    (hj : exec j s = branchIf (!c) len v s) : Opposite i j len v s := by
  refine ⟨c, hi, hj.trans ?_⟩
  cases c <;> rfl

theorem opposite_zeroInstr {ra : RegIdx} (h : typeRule s.cfg none (s.typeOf ra) = .compare (some d))
    (hfixed : d.kind = .fixed) (rel : ZeroRel) (v : Word) :
    Opposite (zeroInstr .any rel ra v) (zeroInstr .all rel.negated ra v) 4 v s := by
  refine opposite_of_branchIf ((exec_zeroInstr ..).trans (compareZero_of_compare h _ _ v)) ?_
  rw [exec_zeroInstr, compareZero_of_compare h, aggregate_all_not]
  intro i _
  rw [zeroLane_of_fixed hfixed, zeroLane_of_fixed hfixed, zeroHolds_negated]

theorem opposite_regInstr {rb ra : RegIdx}
    (h : typeRule s.cfg (some (s.typeOf rb)) (s.typeOf ra) = .compare (some d)) (hfixed : d.kind = .fixed)
    (rel : RegRel) (v : Word) :
    Opposite (regInstr .any rel rb ra v) (regInstr .all rel.negated rb ra v) 4 v s := by
  refine opposite_of_branchIf ((exec_regInstr ..).trans (compareReg_of_compare h _ _ v)) ?_
  rw [exec_regInstr, compareReg_of_compare h, aggregate_all_not]
  intro i _
  rw [regLane_of_fixed hfixed, regLane_of_fixed hfixed, regHolds_negated]

theorem opposite_groupInstr (rel : TypeRel) (g : Fin 4) (v : Word) (t : TypeWord) (s : State) :
    Opposite (groupInstr .any rel g v t) (groupInstr .all rel.negated g v t) 6 v s := by
  refine opposite_of_branchIf (exec_groupInstr ..) ?_
  rw [exec_groupInstr, groupTest, aggregate_all_not]
  intro p _
  exact typeHolds_negated rel s p

/-! ### Scalar types: one lane, so any and all agree (R106) -/

/-- Over one element, any and all are the condition of that element. -/
theorem aggregate_singleton {α : Type} (agg : Aggregation) (x : α) (p : α → Bool) : aggregate agg [x] p = p x := by
  cases agg <;> simp [aggregate]

theorem compareZero_scalar {ra : RegIdx} (h : typeRule s.cfg none (s.typeOf ra) = .compare (some d))
    (hfixed : d.kind = .fixed) (hscalar : d.shape = .scalar) (agg : Aggregation) (rel : ZeroRel) (v : Word) :
    compareZero agg rel ra v s = branchIf (zeroHolds rel (lane (s.value ra) d.width 0)) 4 v s := by
  rw [compareZero_of_compare h, nLanes_of_scalar s hscalar, List.range_one, aggregate_singleton,
    zeroLane_of_fixed hfixed]

theorem compareReg_scalar {rb ra : RegIdx}
    (h : typeRule s.cfg (some (s.typeOf rb)) (s.typeOf ra) = .compare (some d)) (hfixed : d.kind = .fixed)
    (hscalar : d.shape = .scalar) (agg : Aggregation) (rel : RegRel) (v : Word) :
    compareReg agg rel rb ra v s =
      branchIf (regHolds rel (lane (s.value rb) d.width 0) (lane (s.value ra) d.width 0)) 4 v s := by
  rw [compareReg_of_compare h, nLanes_of_scalar s hscalar, List.range_one, aggregate_singleton,
    regLane_of_fixed hfixed]

/-! ### One register in both fields (R112) -/

/-- A register compared with itself: the condition is the same in every lane. -/
theorem compareReg_self {r : RegIdx} (h : typeRule s.cfg (some (s.typeOf r)) (s.typeOf r) = .compare (some d))
    (hfixed : d.kind = .fixed) (agg : Aggregation) (rel : RegRel) (v : Word) :
    compareReg agg rel r r v s =
      branchIf (aggregate agg (List.range (nLanes s d)) fun _ => rel.holdsOfEqual) 4 v s := by
  rw [compareReg_of_compare h]
  congr 1
  refine aggregate_congr agg _ _ _ fun i _ => ?_
  rw [regLane_of_fixed hfixed, regHolds_self]

end Compare

theorem aggregate_any_true_iff (n : Nat) : aggregate .any (List.range n) (fun _ => true) = true ↔ 0 < n := by
  rw [aggregate_any_iff]
  exact ⟨fun ⟨_, hi, _⟩ => Nat.zero_lt_of_lt (List.mem_range.1 hi), fun hn => ⟨0, List.mem_range.2 hn, rfl⟩⟩

theorem aggregate_all_true {α : Type} (xs : List α) : aggregate .all xs (fun _ => true) = true :=
  (aggregate_all_iff xs _).2 fun _ _ => rfl

theorem aggregate_any_false {α : Type} (xs : List α) : aggregate .any xs (fun _ => false) = false := by
  simp [aggregate]

theorem aggregate_all_false_iff (n : Nat) : aggregate .all (List.range n) (fun _ => false) = true ↔ n = 0 := by
  have hnot := aggregate_all_not (List.range n) (fun _ => true) (fun _ => false) fun _ _ => rfl
  rw [hnot, Bool.not_eq_true', Bool.eq_false_iff, ne_eq, aggregate_any_true_iff, Nat.not_lt, Nat.le_zero]

/-- A branch action as the statements write it out (R101). -/
theorem branchesExactlyWhen_of_branchIf {i : Instr} {c : Bool} {len v : Word} {s : State} {cond : Prop}
    (h : exec i s = branchIf c len v s) (hc : c = true ↔ cond) : BranchesExactlyWhen i len v s cond := by
  refine ⟨c, hc, h.trans ?_⟩
  cases c <;> rfl

/-! ### Lanes that are not compared (R103, R108) -/

@[simp] theorem nLanes_setValue (s : State) (r : RegIdx) (v : RegValue) (d : Descriptor) :
    nLanes (s.setValue r v) d = nLanes s d := rfl

section Setting

variable {s : State} {d : Descriptor} {r : RegIdx} {v : RegValue}
  (hlanes : ∀ i < nLanes s d, lane v d.width i = lane (s.value r) d.width i)
include hlanes

/-- A register that is given a value with the same compared lanes keeps them, and so does every other register. -/
theorem lane_setValue (r' : RegIdx) {i : Nat} (hi : i < nLanes s d) :
    lane ((s.setValue r v).value r') d.width i = lane (s.value r') d.width i := by
  rw [setValue_value]
  split_ifs with hr
  · rw [hlanes i hi, hr]
  · rfl

theorem aggregate_zeroLane_setValue (agg : Aggregation) (rel : ZeroRel) (ra : RegIdx) :
    aggregate agg (List.range (nLanes s d)) (zeroLane agg rel d ((s.setValue r v).value ra)) =
      aggregate agg (List.range (nLanes s d)) (zeroLane agg rel d (s.value ra)) := by
  refine aggregate_congr agg _ _ _ fun i hi => ?_
  rw [zeroLane, zeroLane, lane_setValue hlanes ra (List.mem_range.1 hi)]

theorem aggregate_regLane_setValue (agg : Aggregation) (rel : RegRel) (rb ra : RegIdx) :
    aggregate agg (List.range (nLanes s d))
        (regLane agg rel d ((s.setValue r v).value rb) ((s.setValue r v).value ra)) =
      aggregate agg (List.range (nLanes s d)) (regLane agg rel d (s.value rb) (s.value ra)) := by
  refine aggregate_congr agg _ _ _ fun i hi => ?_
  rw [regLane, regLane, lane_setValue hlanes rb (List.mem_range.1 hi), lane_setValue hlanes ra (List.mem_range.1 hi)]

end Setting

/-- The branch action goes to one address on one condition, whatever a register holds (R101). -/
theorem branchIf_setValue (c : Bool) (len value : Word) (s : State) (r : RegIdx) (v : RegValue) :
    ∃ a : Word, branchIf c len value s = .next { s with pc := a } ∧
      branchIf c len value (s.setValue r v) = .next { s.setValue r v with pc := a } :=
  ⟨_, branchIf_eq c len value s, branchIf_eq c len value (s.setValue r v)⟩

/-- The branch action goes to one address on one condition, whatever `VEND` holds (R101). -/
theorem branchIf_vend (c : Bool) (len value : Word) (s : State) (vend : Nat) :
    ∃ a : Word, branchIf c len value s = .next { s with pc := a } ∧
      branchIf c len value { s with vend := vend } = .next { s with pc := a, vend := vend } :=
  ⟨_, branchIf_eq c len value s, branchIf_eq c len value { s with vend := vend }⟩

/-! ### The statements -/

/-- Settles O14: case by case of what memory holds from `pc` on; the ends that are not final record themselves and
change nothing else. -/
theorem fetchOutcomesInOrder : Obligations.FetchOutcomesInOrder := by
  refine fun s halive =>
    ⟨step_of_odd_pc halive, fun heven => ⟨step_of_missing_parcel0 halive heven, fun w0 h0 => ?_⟩, ?_⟩
  · exact ⟨fun err => step_of_undefined_word halive heven h0, fun mk => step_of_short halive heven h0,
      fun mk => step_of_long halive heven h0⟩
  · rintro (⟨p, h⟩ | ⟨p, h⟩ | ⟨p, w, h⟩) <;> rw [advance, h] <;> exact ⟨rfl, _, rfl⟩

/-- Settles O37: bit by bit of the number that the words of the value spell. -/
theorem laneIsItsSliceOfTheRegister : Obligations.LaneIsItsSliceOfTheRegister :=
  fun v => ⟨fun _ _ hfits _ hj => getLsbD_lane_eq_word hfits hj, lane_scalar v⟩

/-- Settles O38: each list of pairs is the any form of every relation beside the all form of its negation. -/
theorem negatedRelationsBranchOpposite : Obligations.NegatedRelationsBranchOpposite := by
  refine ⟨List.forall_mem_map (l := zeroRels) (f := fun rel => (zeroInstr .any rel, zeroInstr .all rel.negated)).2 ?_,
    List.forall_mem_map (l := regRels) (f := fun rel => (regInstr .any rel, regInstr .all rel.negated)).2 ?_,
    List.forall_mem_map (l := groupKinds)
      (f := fun k : TypeRel × Fin 4 => (groupInstr .any k.1 k.2, groupInstr .all k.1.negated k.2)).2 ?_⟩
  · exact fun rel _ ra value s d htype hfixed => opposite_zeroInstr htype hfixed rel value
  · exact fun rel _ rb ra value s d htype hfixed => opposite_regInstr htype hfixed rel value
  · exact fun k _ value t s => opposite_groupInstr k.1 k.2 value t s

/-- Settles O39: with the one lane of a scalar type both forms branch on that lane's condition, under any `VEND`. -/
theorem scalarTypesMakeAnyAndAllAlike : Obligations.ScalarTypesMakeAnyAndAllAlike := by
  refine ⟨List.forall_mem_map (l := zeroRels) (f := fun rel => (zeroInstr .any rel, zeroInstr .all rel)).2 ?_,
    List.forall_mem_map (l := regRels) (f := fun rel => (regInstr .any rel, regInstr .all rel)).2 ?_⟩
  · intro rel _ ra value s d vend htype hfixed hscalar
    obtain ⟨a, ha, hvend⟩ := branchIf_vend (zeroHolds rel (lane (s.value ra) d.width 0)) 4 value s vend
    simp only [exec_zeroInstr]
    exact ⟨a, (compareZero_scalar htype hfixed hscalar ..).trans ha,
      (compareZero_scalar htype hfixed hscalar ..).trans ha,
      (compareZero_scalar (s := { s with vend := vend }) htype hfixed hscalar ..).trans hvend⟩
  · intro rel _ rb ra value s d vend htype hfixed hscalar
    obtain ⟨a, ha, hvend⟩ := branchIf_vend
      (regHolds rel (lane (s.value rb) d.width 0) (lane (s.value ra) d.width 0)) 4 value s vend
    simp only [exec_regInstr]
    exact ⟨a, (compareReg_scalar htype hfixed hscalar ..).trans ha,
      (compareReg_scalar htype hfixed hscalar ..).trans ha,
      (compareReg_scalar (s := { s with vend := vend }) htype hfixed hscalar ..).trans hvend⟩

/-- Settles O40: the condition is the same in every lane, so only the number of lanes decides. -/
theorem registerComparedWithItself : Obligations.RegisterComparedWithItself := by
  intro r value s d htype hfixed
  have hself := fun agg rel =>
    (exec_regInstr agg rel r r value s).trans (compareReg_self htype hfixed agg rel value)
  have hholds : ∀ rel ∈ [RegRel.eq, .ges, .geu], rel.holdsOfEqual = true := by decide
  have hfails : ∀ rel ∈ [RegRel.ne, .lts, .ltu], rel.holdsOfEqual = false := by decide
  refine ⟨List.forall_mem_map (l := [.eq, .ges, .geu]) (f := regInstr .any).2 fun rel hrel => ?_,
    List.forall_mem_map (l := [.eq, .ges, .geu]) (f := regInstr .all).2 fun rel hrel => ?_,
    List.forall_mem_map (l := [.ne, .lts, .ltu]) (f := regInstr .any).2 fun rel hrel => ?_,
    List.forall_mem_map (l := [.ne, .lts, .ltu]) (f := regInstr .all).2 fun rel hrel => ?_⟩
  · refine branchesExactlyWhen_of_branchIf (hself .any rel) ?_
    rw [hholds rel hrel, aggregate_any_true_iff]
  · rw [hself, hholds rel hrel, aggregate_all_true]
    rfl
  · rw [hself, hfails rel hrel, aggregate_any_false]
    rfl
  · refine branchesExactlyWhen_of_branchIf (hself .all rel) ?_
    rw [hfails rel hrel, aggregate_all_false_iff]

/-- Settles O42: the aggregation sees each register through the compared lanes only. -/
theorem lanesBeyondTheCountDoNotMatter : Obligations.LanesBeyondTheCountDoNotMatter := by
  refine ⟨fun mk hmk ra value s d v htype hlanes => ?_, fun mk hmk rb ra r value s d v htype hlanes => ?_⟩
  · obtain ⟨agg, rel, rfl⟩ := mem_zeroForms hmk
    have hset := compareZero_of_compare (s := s.setValue ra v) htype agg rel value
    rw [nLanes_setValue, aggregate_zeroLane_setValue hlanes] at hset
    rw [exec_zeroInstr, exec_zeroInstr, compareZero_of_compare htype, hset]
    exact branchIf_setValue _ 4 value s ra v
  · obtain ⟨agg, rel, rfl⟩ := mem_regForms hmk
    have hset := compareReg_of_compare (s := s.setValue r v) htype agg rel value
    rw [nLanes_setValue, aggregate_regLane_setValue hlanes] at hset
    rw [exec_regInstr, exec_regInstr, compareReg_of_compare htype, hset]
    exact branchIf_setValue _ 4 value s r v

/-- Settles O13: the fetch reads the parcels that memory holds, and more parcels after them decode alike. -/
theorem stepRunsTheDecodedInstruction : Obligations.StepRunsTheDecodedInstruction :=
  fun _ _ _ halive heven hmem hdec => step_eq_exec_of_holdsParcels halive heven hmem hdec

/-- Settles O35: the first entry for the operand types decides, and without one the default rule. -/
theorem typeRuleIsTheEntryElseTheDefault : Obligations.TypeRuleIsTheEntryElseTheDefault := by
  intro c left tb ta r
  refine ⟨fun hnone => ?_, typeRule_cons_same c ⟨left, ta, r⟩, fun _ _ h => typeRule_cons_of_ne c ⟨left, ta, r⟩ h⟩
  simp only [typeRule_of_no_entries hnone]
  exact ⟨rfl, defaultTypeRule_same c ta, defaultTypeRule_of_ne c⟩

/-- Settles O36: the first entry for the descriptor and `VEND` decides, without one the free value, cut to the bound. -/
theorem laneCountIsOneOrBounded : Obligations.LaneCountIsOneOrBounded := by
  refine ⟨fun s d => ⟨nLanes_of_scalar s, fun hvector => ?_⟩, fun c e d vend => ?_⟩
  · rw [nLanes_of_vector s hvector]
    exact ⟨rfl, fun hw => activeLanes_le s.cfg hw s.vend⟩
  · exact ⟨activeLanes_cons_same c e, activeLanes_cons_of_ne c e, fun hnone => activeLanes_of_no_entries hnone d vend⟩

end Sys2Proof.Machine
end

section
/-! The statements of spec/41_cbranch_zero.md: the rule of a compare-with-zero branch, proved once for every aggregation
and relation from what the relation says of one fixed point lane. -/

namespace Sys2Proof

/-! ### The encoding (R51, R57, R120) -/

/-- A code word is the number that its fields spell (R51). -/
theorem codeWord_eq_ofNat (d c b a : Nibble) :
    codeWord d c b a = BitVec.ofNat 16 (0x1000 * d.toNat + 0x100 * c.toNat + 0x10 * b.toNat + a.toNat) := by
  rw [← codeWord_toNat, BitVec.ofNat_toNat, BitVec.setWidth_eq]

theorem zeroWord_eq_ofNat (agg : Aggregation) (rel : ZeroRel) (ra : RegIdx) :
    zeroWord agg rel ra = BitVec.ofNat 16 (0xf000 + 0x10 * (zeroSelector agg rel).toNat + ra.val) := by
  rw [zeroWord, codeWord_eq_ofNat, regField_toNat]
  rfl

@[simp] theorem zeroInstr_value (agg : Aggregation) (rel : ZeroRel) (ra : RegIdx) (v : Word) :
    (zeroInstr agg rel ra v).value = v := by
  cases agg <;> cases rel <;> rfl

theorem zeroInstr_wf {v : Word} (hv : encodableOffset v = true) (agg : Aggregation) (rel : ZeroRel) (ra : RegIdx) :
    (zeroInstr agg rel ra v).wf = true := by
  rw [Instr.wf, zeroInstr_value, zeroInstr_testedBit, hv]
  rfl

theorem encode_zeroInstr {v : Word} (hv : encodableOffset v = true) (agg : Aggregation) (rel : ZeroRel) (ra : RegIdx) :
    encode (zeroInstr agg rel ra v) = some [zeroWord agg rel ra, encodeOffset v] := by
  rw [encode_of_wf (zeroInstr_wf hv agg rel ra), zeroInstr_parcels]

end Sys2Proof

namespace Sys2Proof.Machine

/-! ### The relations on one fixed point lane (R107, R110) -/

section Relations

variable {w : Nat} (a : BitVec w)

theorem zeroHolds_eqz_iff : zeroHolds .eqz a = true ↔ a = 0 := beq_iff_eq

theorem zeroHolds_nez_iff : zeroHolds .nez a = true ↔ a ≠ 0 := bne_iff_ne

theorem zeroHolds_ltz_iff : zeroHolds .ltz a = true ↔ a.toInt < 0 := decide_eq_true_iff

theorem zeroHolds_gez_iff : zeroHolds .gez a = true ↔ 0 ≤ a.toInt := decide_eq_true_iff

theorem zeroHolds_gtz_iff : zeroHolds .gtz a = true ↔ 0 < a.toInt := decide_eq_true_iff

theorem zeroHolds_lez_iff : zeroHolds .lez a = true ↔ a.toInt ≤ 0 := decide_eq_true_iff

end Relations

/-! ### Aggregation over the compared lanes (R105) -/

section Lanes

variable {n : Nat} {p : Nat → Bool} {P : Nat → Prop} (hp : ∀ i, p i = true ↔ P i)
include hp

theorem aggregate_any_range_iff : aggregate .any (List.range n) p = true ↔ ∃ i < n, P i := by
  simp only [aggregate_any_iff, List.mem_range, hp]

theorem aggregate_all_range_iff : aggregate .all (List.range n) p = true ↔ ∀ i < n, P i := by
  simp only [aggregate_all_iff, List.mem_range, hp]

end Lanes

theorem zeroLane_of_float {d : Descriptor} (hfloat : d.kind = .float) (agg : Aggregation) (rel : ZeroRel)
    (v : RegValue) (i : Nat) :
    zeroLane agg rel d v i = Config.floatCmp (.zero agg rel) d.width none (lane v d.width i) := by
  rw [zeroLane, hfloat]

/-! ### The rule of a compare-with-zero branch (R120) -/

/-- Type handling ends the step before any lane is compared (R102, R203). -/
theorem stopsOnType_zeroInstr (agg : Aggregation) (rel : ZeroRel) (ra : RegIdx) (v : Word) (s : State) :
    StopsOnType (zeroInstr agg rel ra v) (zeroWord agg rel ra) (typeRule s.cfg none (s.typeOf ra)) (s.typeOf ra) s := by
  constructor
  · intro hexc
    rw [exec_zeroInstr, compareZero, typeCheck1, hexc, raiseExcType]
  · intro hnone
    rw [exec_zeroInstr, compareZero, typeCheck1, hnone]

/-- The rule of a branch follows from what its relation says of one fixed point lane. -/
theorem zeroBranchRule_of_zeroHolds_iff (agg : Aggregation) (rel : ZeroRel) {P : (w : Nat) → BitVec w → Prop}
    (hP : ∀ {w : Nat} (a : BitVec w), zeroHolds rel a = true ↔ P w a) :
    ZeroBranchRule (zeroInstr agg rel) agg rel (zeroSelector agg rel).toNat P := by
  intro ra value
  rw [← zeroWord_eq_ofNat]
  refine ⟨fun hv => encode_zeroInstr hv agg rel ra, fun s => ⟨stopsOnType_zeroInstr agg rel ra value s, ?_⟩⟩
  intro d htype
  have hfixed (hkind : d.kind = .fixed) (i : Nat) :
      zeroLane agg rel d (s.value ra) i = true ↔ P d.width (lane (s.value ra) d.width i) := by
    rw [zeroLane_of_fixed hkind, hP]
  have hfloat (hkind : d.kind = .float) (i : Nat) := Bool.eq_iff_iff.1 (zeroLane_of_float hkind agg rel (s.value ra) i)
  refine branchesExactlyWhen_of_branchIf ((exec_zeroInstr ..).trans (compareZero_of_compare htype agg rel value)) ?_
  cases agg with
  | any =>
    cases hkind : d.kind with
    | fixed => exact aggregate_any_range_iff (hfixed hkind)
    | float => exact aggregate_any_range_iff (hfloat hkind)
  | all =>
    cases hkind : d.kind with
    | fixed => exact aggregate_all_range_iff (hfixed hkind)
    | float => exact aggregate_all_range_iff (hfloat hkind)

/-! ### The statements -/

/-- Settles O26: each of the six from the rule of the any forms and its relation on one lane. -/
theorem compareWithZeroAnyBranches : Obligations.CompareWithZeroAnyBranches :=
  ⟨zeroBranchRule_of_zeroHolds_iff .any .eqz zeroHolds_eqz_iff,
    zeroBranchRule_of_zeroHolds_iff .any .nez zeroHolds_nez_iff,
    zeroBranchRule_of_zeroHolds_iff .any .ltz zeroHolds_ltz_iff,
    zeroBranchRule_of_zeroHolds_iff .any .gez zeroHolds_gez_iff,
    zeroBranchRule_of_zeroHolds_iff .any .gtz zeroHolds_gtz_iff,
    zeroBranchRule_of_zeroHolds_iff .any .lez zeroHolds_lez_iff⟩

/-- Settles O27: each of the six from the rule of the all forms and its relation on one lane. -/
theorem compareWithZeroAllBranches : Obligations.CompareWithZeroAllBranches :=
  ⟨zeroBranchRule_of_zeroHolds_iff .all .eqz zeroHolds_eqz_iff,
    zeroBranchRule_of_zeroHolds_iff .all .nez zeroHolds_nez_iff,
    zeroBranchRule_of_zeroHolds_iff .all .ltz zeroHolds_ltz_iff,
    zeroBranchRule_of_zeroHolds_iff .all .gez zeroHolds_gez_iff,
    zeroBranchRule_of_zeroHolds_iff .all .gtz zeroHolds_gtz_iff,
    zeroBranchRule_of_zeroHolds_iff .all .lez zeroHolds_lez_iff⟩

end Sys2Proof.Machine
end

section
/-! The statements of spec/42_cbranch_reg.md: the rule of a register-register branch, proved once for every aggregation
and relation from what the relation says of two fixed point lanes. -/

namespace Sys2Proof

/-! ### The encoding (R51, R57, R140) -/

theorem regWord_eq_ofNat (agg : Aggregation) (rel : RegRel) (rb ra : RegIdx) :
    regWord agg rel rb ra =
      BitVec.ofNat 16 (0xf000 + 0x100 * (regSelector agg rel).toNat + 0x10 * rb.val + ra.val) := by
  rw [regWord, codeWord_eq_ofNat, regField_toNat, regField_toNat]
  rfl

@[simp] theorem regInstr_value (agg : Aggregation) (rel : RegRel) (rb ra : RegIdx) (v : Word) :
    (regInstr agg rel rb ra v).value = v := by
  cases agg <;> cases rel <;> rfl

theorem regInstr_wf {v : Word} (hv : encodableOffset v = true) (agg : Aggregation) (rel : RegRel) (rb ra : RegIdx) :
    (regInstr agg rel rb ra v).wf = true := by
  rw [Instr.wf, regInstr_value, regInstr_testedBit, hv]
  rfl

theorem encode_regInstr {v : Word} (hv : encodableOffset v = true) (agg : Aggregation) (rel : RegRel)
    (rb ra : RegIdx) : encode (regInstr agg rel rb ra v) = some [regWord agg rel rb ra, encodeOffset v] := by
  rw [encode_of_wf (regInstr_wf hv agg rel rb ra), regInstr_parcels]

end Sys2Proof

namespace Sys2Proof.Machine

/-! ### The relations of two fixed point lanes (R107, R110): the lane `b` of `$rB` is the left operand -/

section Relations

variable {w : Nat} (b a : BitVec w)

theorem regHolds_eq_iff : regHolds .eq b a = true ↔ b = a := beq_iff_eq

theorem regHolds_ne_iff : regHolds .ne b a = true ↔ b ≠ a := bne_iff_ne

theorem regHolds_lts_iff : regHolds .lts b a = true ↔ b.toInt < a.toInt := decide_eq_true_iff

theorem regHolds_ges_iff : regHolds .ges b a = true ↔ a.toInt ≤ b.toInt := decide_eq_true_iff

theorem regHolds_ltu_iff : regHolds .ltu b a = true ↔ b.toNat < a.toNat := decide_eq_true_iff

theorem regHolds_geu_iff : regHolds .geu b a = true ↔ a.toNat ≤ b.toNat := decide_eq_true_iff

end Relations

theorem regLane_of_float {d : Descriptor} (hfloat : d.kind = .float) (agg : Aggregation) (rel : RegRel)
    (vb va : RegValue) (i : Nat) :
    regLane agg rel d vb va i =
      Config.floatCmp (.reg agg rel) d.width (some (lane vb d.width i)) (lane va d.width i) := by
  rw [regLane, hfloat]

/-! ### The rule of a register-register branch (R140) -/

section TypeHandling

variable {s : State} {rb ra : RegIdx}

theorem compareReg_of_excType (h : typeRule s.cfg (some (s.typeOf rb)) (s.typeOf ra) = .excType)
    (agg : Aggregation) (rel : RegRel) (v : Word) :
    compareReg agg rel rb ra v s = .fault (.excType s.pc (regWord agg rel rb ra)) := by
  rw [compareReg, typeCheck2, h, raiseExcType]

theorem compareReg_of_no_descriptor (h : typeRule s.cfg (some (s.typeOf rb)) (s.typeOf ra) = .compare none)
    (agg : Aggregation) (rel : RegRel) (v : Word) :
    compareReg agg rel rb ra v s = .refused (.unknownType s.pc (s.typeOf ra)) := by
  rw [compareReg, typeCheck2, h]

end TypeHandling

/-- Type handling of both operands ends the step before any lane is compared; the refusal names the type code of `$rA`
(R102, R203; log 33). -/
theorem stopsOnType_regInstr (agg : Aggregation) (rel : RegRel) (rb ra : RegIdx) (v : Word) (s : State) :
    StopsOnType (regInstr agg rel rb ra v) (regWord agg rel rb ra)
      (typeRule s.cfg (some (s.typeOf rb)) (s.typeOf ra)) (s.typeOf ra) s := by
  constructor
  · intro hexc
    rw [exec_regInstr, compareReg_of_excType hexc]
  · intro hnone
    rw [exec_regInstr, compareReg_of_no_descriptor hnone]

/-- The rule of a branch follows from what its relation says of two fixed point lanes. -/
theorem regBranchRule_of_regHolds_iff (agg : Aggregation) (rel : RegRel)
    {P : (w : Nat) → BitVec w → BitVec w → Prop}
    (hP : ∀ {w : Nat} (b a : BitVec w), regHolds rel b a = true ↔ P w b a) :
    RegBranchRule (regInstr agg rel) agg rel (regSelector agg rel).toNat P := by
  intro rb ra value
  rw [← regWord_eq_ofNat]
  refine ⟨fun hv => encode_regInstr hv agg rel rb ra, fun s => ⟨stopsOnType_regInstr agg rel rb ra value s, ?_⟩⟩
  intro d htype
  refine branchesExactlyWhen_of_branchIf ((exec_regInstr ..).trans (compareReg_of_compare htype agg rel value)) ?_
  cases hkind : d.kind with
  | fixed =>
    have hlane (i : Nat) : regLane agg rel d (s.value rb) (s.value ra) i = true ↔
        P d.width (lane (s.value rb) d.width i) (lane (s.value ra) d.width i) := by
      rw [regLane_of_fixed hkind, hP]
    cases agg with
    | any => exact aggregate_any_range_iff hlane
    | all => exact aggregate_all_range_iff hlane
  | float =>
    have hlane (i : Nat) := Bool.eq_iff_iff.1 (regLane_of_float hkind agg rel (s.value rb) (s.value ra) i)
    cases agg with
    | any => exact aggregate_any_range_iff hlane
    | all => exact aggregate_all_range_iff hlane

/-! ### The statements -/

/-- Settles O28: each of the six from the rule of the any forms and its relation of two lanes. -/
theorem compareRegistersAnyBranches : Obligations.CompareRegistersAnyBranches :=
  ⟨regBranchRule_of_regHolds_iff .any .eq regHolds_eq_iff,
    regBranchRule_of_regHolds_iff .any .ne regHolds_ne_iff,
    regBranchRule_of_regHolds_iff .any .lts regHolds_lts_iff,
    regBranchRule_of_regHolds_iff .any .ges regHolds_ges_iff,
    regBranchRule_of_regHolds_iff .any .ltu regHolds_ltu_iff,
    regBranchRule_of_regHolds_iff .any .geu regHolds_geu_iff⟩

/-- Settles O29: each of the six from the rule of the all forms and its relation of two lanes. -/
theorem compareRegistersAllBranches : Obligations.CompareRegistersAllBranches :=
  ⟨regBranchRule_of_regHolds_iff .all .eq regHolds_eq_iff,
    regBranchRule_of_regHolds_iff .all .ne regHolds_ne_iff,
    regBranchRule_of_regHolds_iff .all .lts regHolds_lts_iff,
    regBranchRule_of_regHolds_iff .all .ges regHolds_ges_iff,
    regBranchRule_of_regHolds_iff .all .ltu regHolds_ltu_iff,
    regBranchRule_of_regHolds_iff .all .geu regHolds_geu_iff⟩

end Sys2Proof.Machine
end

section
/-! The statements of spec/43_cbranch_bit.md: a code of a bit position makes a bit test encodable, and the two branches
act on one bit of the scalar part and on its negation. -/

namespace Sys2Proof

/-! ### The encoding (R51, R57, R160) -/

theorem bit1Word_eq_ofNat (ra : RegIdx) (c : Nibble) :
    bit1Word ra c = BitVec.ofNat 16 (0xf0f0 + 0x100 * c.toNat + ra.val) := by
  have hfields : 0x1000 * 0xf + 0x100 * c.toNat + 0x10 * 0xf + ra.val = 0xf0f0 + 0x100 * c.toNat + ra.val := by omega
  rw [bit1Word, codeWord_eq_ofNat, regField_toNat, ← hfields]
  rfl

theorem bit0Word_eq_ofNat (rb : RegIdx) (c : Nibble) :
    bit0Word rb c = BitVec.ofNat 16 (0xf00f + 0x100 * c.toNat + 0x10 * rb.val) := by
  have hfields : 0x1000 * 0xf + 0x100 * c.toNat + 0x10 * rb.val + 0xf = 0xf00f + 0x100 * c.toNat + 0x10 * rb.val := by
    omega
  rw [bit0Word, codeWord_eq_ofNat, regField_toNat, ← hfields]
  rfl

/-- A bit test is well formed when its offset and its bit position have encodings. -/
theorem wf_of_testedBit {i : Instr} {p : Fin 32} (hbit : i.testedBit = some p) (hp : testableBit p = true)
    (hv : encodableOffset i.value = true) : i.wf = true := by
  rw [Instr.wf, hv, hbit]
  exact hp

section Encode

variable {p : Fin 32} {v : Word} (hp : testableBit p = true) (hv : encodableOffset v = true)
include hp hv

theorem encode_cbBit1 (ra : RegIdx) : encode (.cbBit1 ra p v) = some [bit1Word ra (bitCode p), encodeOffset v] :=
  encode_of_wf (wf_of_testedBit rfl hp hv)

theorem encode_cbBit0 (rb : RegIdx) : encode (.cbBit0 rb p v) = some [bit0Word rb (bitCode p), encodeOffset v] :=
  encode_of_wf (wf_of_testedBit rfl hp hv)

end Encode

end Sys2Proof

namespace Sys2Proof.Machine

/-! ### What the bit tests execute (R160, R161, R162) -/

theorem exec_cbBit1 (ra : RegIdx) (p : Fin 32) (v : Word) (s : State) :
    exec (.cbBit1 ra p v) s = branchIf (scalarBit s ra p) 4 v s := rfl

theorem exec_cbBit0 (rb : RegIdx) (p : Fin 32) (v : Word) (s : State) :
    exec (.cbBit0 rb p v) s = branchIf (!scalarBit s rb p) 4 v s := rfl

theorem scalarBit_iff (s : State) (r : RegIdx) (p : Fin 32) :
    scalarBit s r p = true ↔ (s.value r).scalar.getLsbD p.val = true := Iff.rfl

theorem not_scalarBit_iff (s : State) (r : RegIdx) (p : Fin 32) :
    (!scalarBit s r p) = true ↔ (s.value r).scalar.getLsbD p.val = false := by
  rw [Bool.not_eq_true', scalarBit]

/-! ### The statement -/

/-- Settles O30: the code stands for a position that has an encoding, and the two branch on one bit and its negation. -/
theorem bitTestBranches : Obligations.BitTestBranches := by
  intro r c p value hpos
  obtain ⟨rfl, hp⟩ := bitCode_bitPos c p hpos
  rw [← bit1Word_eq_ofNat, ← bit0Word_eq_ofNat]
  refine ⟨fun hv => ⟨encode_cbBit1 hp hv r, encode_cbBit0 hp hv r⟩, fun s => ?_⟩
  have hbit1 := exec_cbBit1 r p value s
  have hbit0 := exec_cbBit0 r p value s
  exact ⟨branchesExactlyWhen_of_branchIf hbit1 (scalarBit_iff s r p),
    branchesExactlyWhen_of_branchIf hbit0 (not_scalarBit_iff s r p), opposite_of_branchIf hbit1 hbit0⟩

end Sys2Proof.Machine
end


section
/-! The statements of spec/44_cbranch_type.md: the rule of a group branch, proved once for every aggregation, relation
and group; which registers, type fields and mask bits take no part; and what a branch does with nothing to test. -/

namespace Sys2Proof

/-! ### The encoding (R51, R53, R54, R57, R170) -/

theorem typeParcel_eq_ofNat (t : TypeWord) :
    typeParcel t = BitVec.ofNat 16 (0x1000 * t.d.toNat + 0x100 * t.c.toNat + 0x10 * t.b.toNat + t.a.toNat) :=
  codeWord_eq_ofNat t.d t.c t.b t.a

theorem maskWord_eq_ofNat (rd : RegIdx) : maskWord rd = BitVec.ofNat 16 (0x1000 * rd.val + 0x3f) := by
  rw [maskWord, codeWord_eq_ofNat, regField_toNat]
  rfl

@[simp] theorem groupInstr_value (agg : Aggregation) (rel : TypeRel) (g : Fin 4) (v : Word) (t : TypeWord) :
    (groupInstr agg rel g v t).value = v := by
  cases agg <;> cases rel <;> fin_cases g <;> rfl

/-- An instruction that tests no bit is well formed when its offset has an encoding. -/
theorem wf_of_no_testedBit {i : Instr} (hbit : i.testedBit = none) (hv : encodableOffset i.value = true) :
    i.wf = true := by
  rw [Instr.wf, hv, hbit]
  rfl

section Encode

variable {v : Word} (hv : encodableOffset v = true)
include hv

theorem encode_groupInstr (agg : Aggregation) (rel : TypeRel) (g : Fin 4) (t : TypeWord) :
    encode (groupInstr agg rel g v t) = some [groupWord agg rel g, encodeOffset v, typeParcel t] := by
  have hvalue : encodableOffset (groupInstr agg rel g v t).value = true := by rw [groupInstr_value, hv]
  rw [encode_of_wf (wf_of_no_testedBit (groupInstr_testedBit agg rel g v t) hvalue), groupInstr_parcels]

theorem encode_cbTmask (rd : RegIdx) (f : Parcel) :
    encode (.cbTmask rd v f) = some [maskWord rd, encodeOffset v, f] :=
  encode_of_wf (wf_of_no_testedBit rfl hv)

end Encode

end Sys2Proof

namespace Sys2Proof.Machine

/-! ### The registers under test and their expected types (R170, R171) -/

/-- The registers of a group with their type fields, whether excluded or not (R170, R171). -/
def groupPairs (g : Fin 4) (t : TypeWord) : List (RegIdx × Nibble) := (groupRegs g).zip (TypeWord.fields t)

/-- A pair is under test when it belongs to the group and its type field is not the marker. -/
theorem mem_underTest {g : Fin 4} {t : TypeWord} {p : RegIdx × Nibble} :
    p ∈ underTest g t ↔ p ∈ groupPairs g t ∧ p.2.toNat ≠ 0xf := by
  rw [underTest, List.mem_filter, bne_iff_ne, ne_eq, ← BitVec.toNat_inj]
  rfl

theorem typeHolds_ne_iff (s : State) (p : RegIdx × Nibble) :
    typeHolds .ne s p = true ↔ (s.typeOf p.1).val ≠ p.2.toNat := bne_iff_ne

theorem typeHolds_eq_iff (s : State) (p : RegIdx × Nibble) :
    typeHolds .eq s p = true ↔ (s.typeOf p.1).val = p.2.toNat := beq_iff_eq

section Tested

variable {rel : TypeRel} {s : State} {P : RegIdx × Nibble → Prop} (hP : ∀ p, typeHolds rel s p = true ↔ P p)
  (g : Fin 4) (t : TypeWord)
include hP

theorem aggregate_any_underTest_iff : aggregate .any (underTest g t) (typeHolds rel s) = true ↔
    ∃ p ∈ groupPairs g t, p.2.toNat ≠ 0xf ∧ P p := by
  simp only [aggregate_any_iff, mem_underTest, hP, and_assoc]

theorem aggregate_all_underTest_iff : aggregate .all (underTest g t) (typeHolds rel s) = true ↔
    ∀ p ∈ groupPairs g t, p.2.toNat ≠ 0xf → P p := by
  simp only [aggregate_all_iff, mem_underTest, hP, and_imp]

end Tested

/-- The rule of a group branch, from the pairs of its group and the comparison of one pair. -/
theorem groupBranchRule (agg : Aggregation) (rel : TypeRel) (g : Fin 4) :
    GroupBranchRule (groupInstr agg rel g) (groupWord agg rel g) agg rel (groupPairs g) := by
  intro v t
  rw [← typeParcel_eq_ofNat]
  refine ⟨fun hv => encode_groupInstr hv agg rel g t, fun s => ?_⟩
  refine branchesExactlyWhen_of_branchIf (exec_groupInstr agg rel g v t s) ?_
  cases agg with
  | any =>
    cases rel with
    | ne => exact aggregate_any_underTest_iff (typeHolds_ne_iff s) g t
    | eq => exact aggregate_any_underTest_iff (typeHolds_eq_iff s) g t
  | all =>
    cases rel with
    | ne => exact aggregate_all_underTest_iff (typeHolds_ne_iff s) g t
    | eq => exact aggregate_all_underTest_iff (typeHolds_eq_iff s) g t

/-! ### Registers that take no part (R171) -/

theorem groupRegs_nodup (g : Fin 4) : (groupRegs g).Nodup := by
  revert g
  decide

/-- A list without repetitions is paired with one element each. -/
theorem snd_eq_of_mem_zip {α β : Type} {xs : List α} {ys : List β} (hxs : xs.Nodup) {x : α} {y y' : β}
    (h : (x, y) ∈ xs.zip ys) (h' : (x, y') ∈ xs.zip ys) : y = y' := by
  obtain ⟨i, hi, hx⟩ := List.mem_iff_getElem.1 h
  obtain ⟨j, hj, hx'⟩ := List.mem_iff_getElem.1 h'
  rw [List.getElem_zip, Prod.mk.injEq] at hx hx'
  obtain ⟨hxi, rfl⟩ := hx
  obtain ⟨hxj, rfl⟩ := hx'
  obtain rfl : i = j := hxs.getElem_inj_iff.1 (hxi.trans hxj.symm)
  rfl

/-- A register whose type field is the marker, or that is outside the group, is not under test. -/
theorem ne_of_mem_underTest {g : Fin 4} {t : TypeWord} {r : RegIdx}
    (h : (r, 0xf#4) ∈ groupPairs g t ∨ r ∉ groupRegs g) : ∀ p ∈ underTest g t, r ≠ p.1 := by
  rintro ⟨_, n⟩ hp rfl
  obtain ⟨hpair, hn⟩ := mem_underTest.1 hp
  rcases h with hmarker | hr
  · exact hn (congrArg BitVec.toNat (snd_eq_of_mem_zip (groupRegs_nodup g) hpair hmarker))
  · exact hr (List.of_mem_zip hpair).1

/-- The aggregation does not see the type of a register that is not under test. -/
theorem aggregate_underTest_setType {g : Fin 4} {t : TypeWord} {r : RegIdx} (h : ∀ p ∈ underTest g t, r ≠ p.1)
    (agg : Aggregation) (rel : TypeRel) (s : State) (ty : TypeCode) :
    aggregate agg (underTest g t) (typeHolds rel (s.setType r ty)) =
      aggregate agg (underTest g t) (typeHolds rel s) := by
  refine aggregate_congr agg _ _ _ fun p hp => ?_
  have htype : (s.setType r ty).typeOf p.1 = s.typeOf p.1 := by rw [setType_typeOf, if_neg (h p hp)]
  simp only [typeHolds, typeIs, htype]

/-- The branch action goes to one address on one condition, whatever type a register has (R101). -/
theorem branchIf_setType (c : Bool) (len value : Word) (s : State) (r : RegIdx) (ty : TypeCode) :
    ∃ a : Word, branchIf c len value s = .next { s with pc := a } ∧
      branchIf c len value (s.setType r ty) = .next { s.setType r ty with pc := a } :=
  ⟨_, branchIf_eq c len value s, branchIf_eq c len value (s.setType r ty)⟩

/-- Group 3 has no fourth register, so its fourth type field is not read. -/
theorem groupTest_three_fieldD (agg : Aggregation) (rel : TypeRel) (v : Word) (t : TypeWord) (d : Nibble) (s : State) :
    groupTest agg rel 3 v { t with d := d } s = groupTest agg rel 3 v t s := rfl

/-- The eight group branches of one aggregation, each with its group (R170). -/
def groupForms (agg : Aggregation) : List ((Word → TypeWord → Instr) × Fin 4) :=
  groupKinds.map fun k => (groupInstr agg k.1 k.2, k.2)

theorem anyGroupForms_eq : anyGroupForms = groupForms .any := rfl

theorem allGroupForms_eq : allGroupForms = groupForms .all := rfl

/-- A property of every group branch of one aggregation holds of each form that the statements list. -/
theorem forall_mem_groupForms {agg : Aggregation} {Q : (Word → TypeWord → Instr) × Fin 4 → Prop}
    (h : ∀ rel g, Q (groupInstr agg rel g, g)) : ∀ p ∈ groupForms agg, Q p :=
  List.forall_mem_map.2 fun k _ => h k.1 k.2

theorem mem_groupForms {p : (Word → TypeWord → Instr) × Fin 4} (h : p ∈ anyGroupForms ++ allGroupForms) :
    ∃ agg rel g, p = (groupInstr agg rel g, g) := by
  rw [anyGroupForms_eq, allGroupForms_eq, List.mem_append, groupForms, groupForms, List.mem_map, List.mem_map] at h
  rcases h with ⟨k, _, rfl⟩ | ⟨k, _, rfl⟩
  · exact ⟨.any, k.1, k.2, rfl⟩
  · exact ⟨.all, k.1, k.2, rfl⟩

/-! ### The type mask (R54, R175) -/

/-- The fifteen bits of `FIELD_F` that are the type mask; the other one is unnamed (R54). -/
def maskBits : MaskPlacement → Parcel
  | .lsb0 => 0x7fff#16
  | .lsb1 => 0xfffe#16

/-- The bit of `FIELD_F` that stands for a type code (R54). -/
def maskIndex : MaskPlacement → TypeCode → Nat
  | .lsb0, t => t.val
  | .lsb1, t => t.val + 1

theorem maskBit_eq_getLsbD (p : MaskPlacement) (f : Parcel) (t : TypeCode) :
    maskBit p f t = f.getLsbD (maskIndex p t) := by
  cases p <;> rfl

theorem maskBits_getLsbD_maskIndex (p : MaskPlacement) (t : TypeCode) :
    (maskBits p).getLsbD (maskIndex p t) = true := by
  cases p <;> revert t <;> decide

/-- Two mask words that agree on the mask have the same bit for every type code. -/
theorem maskBit_congr {p : MaskPlacement} {f f' : Parcel} (h : f &&& maskBits p = f' &&& maskBits p) (t : TypeCode) :
    maskBit p f t = maskBit p f' t := by
  have hbit := congrArg (BitVec.getLsbD · (maskIndex p t)) h
  simp only [BitVec.getLsbD_and, maskBits_getLsbD_maskIndex, Bool.and_true] at hbit
  rw [maskBit_eq_getLsbD, maskBit_eq_getLsbD, hbit]

theorem maskBit_and_maskBits (p : MaskPlacement) (f : Parcel) (t : TypeCode) :
    maskBit p (f &&& maskBits p) t = maskBit p f t :=
  maskBit_congr (by rw [BitVec.and_assoc, BitVec.and_self]) t

/-- The unnamed bit does not matter. -/
theorem maskBit_xor_unnamed (p : MaskPlacement) (f : Parcel) (t : TypeCode) :
    maskBit p (f ^^^ ~~~maskBits p) t = maskBit p f t := by
  have hbit := maskBits_getLsbD_maskIndex p t
  simp [maskBit_eq_getLsbD, hbit]

theorem maskBit_of_full {p : MaskPlacement} {f : Parcel} (h : f &&& maskBits p = maskBits p) (t : TypeCode) :
    maskBit p f t = true := by
  rw [maskBit_congr (h.trans (BitVec.and_self ..).symm), maskBit_eq_getLsbD, maskBits_getLsbD_maskIndex]

theorem maskBit_of_empty {p : MaskPlacement} {f : Parcel} (h : f &&& maskBits p = 0#16) (t : TypeCode) :
    maskBit p f t = false := by
  rw [maskBit_congr (h.trans BitVec.zero_and.symm), maskBit_eq_getLsbD, BitVec.getLsbD_zero]

theorem exec_cbTmask (rd : RegIdx) (v : Word) (f : Parcel) (s : State) :
    exec (.cbTmask rd v f) s = branchIf (!maskBit s.cfg.maskPlacement f (s.typeOf rd)) 6 v s := rfl

/-- What the mask branch does, whichever bit of `FIELD_F` stands for type code 0. -/
theorem maskBranchRule {p : MaskPlacement} {s : State} (hp : s.cfg.maskPlacement = p) (rd : RegIdx) (v : Word)
    (f : Parcel) :
    BranchesExactlyWhen (.cbTmask rd v f) 6 v s (f.getLsbD (maskIndex p (s.typeOf rd)) = false) ∧
    exec (.cbTmask rd v (f ^^^ ~~~maskBits p)) s = exec (.cbTmask rd v f) s ∧
    (f &&& maskBits p = maskBits p → exec (.cbTmask rd v f) s = .next (s.notTaken 6)) ∧
    (f &&& maskBits p = 0#16 → exec (.cbTmask rd v f) s = .next (s.taken 6 v)) := by
  subst hp
  refine ⟨branchesExactlyWhen_of_branchIf (exec_cbTmask rd v f s) ?_, ?_, fun hfull => ?_, fun hempty => ?_⟩
  · rw [Bool.not_eq_true', maskBit_eq_getLsbD]
  · rw [exec_cbTmask, exec_cbTmask, maskBit_xor_unnamed]
  · rw [exec_cbTmask, maskBit_of_full hfull]
    rfl
  · rw [exec_cbTmask, maskBit_of_empty hempty]
    rfl

/-! ### The form an encoder should write (R64) -/

theorem canonical_cbTmask (rd : RegIdx) (v : Word) (f : Parcel) (p : MaskPlacement) :
    (Instr.cbTmask rd v f).canonical p = .cbTmask rd v (f &&& maskBits p) := by
  cases p <;> rfl

/-- The ignored bits that the canonical form overwrites are read by no instruction. -/
theorem exec_canonical (i : Instr) (s : State) : exec (i.canonical s.cfg.maskPlacement) s = exec i s := by
  cases i with
  | cbTmask rd v f => rw [canonical_cbTmask, exec_cbTmask, exec_cbTmask, maskBit_and_maskBits]
  | cbTanyNeG3 v t | cbTallNeG3 v t | cbTanyEqG3 v t | cbTallEqG3 v t =>
    exact groupTest_three_fieldD _ _ v t 0xf#4 s
  | _ => rfl

/-! ### Nothing to test (R105, R172) -/

section Nothing

variable {α : Type} (p : α → Bool) (len v : Word) (s : State)

theorem branchIf_any_nil : branchIf (aggregate .any [] p) len v s = .next (s.notTaken len) := by
  rw [aggregate_nil]
  rfl

theorem branchIf_all_nil : branchIf (aggregate .all [] p) len v s = .next (s.taken len v) := by
  rw [aggregate_nil]
  rfl

end Nothing

/-- With the marker in every type field that takes part, no register is under test. -/
theorem underTest_eq_nil {g : Fin 4} {t : TypeWord} (ha : t.a = 0xf) (hb : t.b = 0xf) (hc : t.c = 0xf)
    (hd : g = 3 ∨ t.d = 0xf) : underTest g t = [] := by
  obtain ⟨a, b, c, d⟩ := t
  dsimp only at ha hb hc hd
  subst ha hb hc
  rcases hd with rfl | rfl
  · rfl
  · fin_cases g <;> rfl

theorem exec_groupInstr_of_untested {g : Fin 4} {t : TypeWord} (h : underTest g t = []) (agg : Aggregation)
    (rel : TypeRel) (v : Word) (s : State) :
    exec (groupInstr agg rel g v t) s = branchIf (aggregate agg [] (typeHolds rel s)) 6 v s := by
  rw [exec_groupInstr, groupTest, h]

section NoLanes

variable {s : State} {d : Descriptor} (hn : nLanes s d = 0)
include hn

theorem exec_zeroInstr_of_no_lanes {ra : RegIdx} (h : typeRule s.cfg none (s.typeOf ra) = .compare (some d))
    (agg : Aggregation) (rel : ZeroRel) (v : Word) :
    exec (zeroInstr agg rel ra v) s = branchIf (aggregate agg [] (zeroLane agg rel d (s.value ra))) 4 v s := by
  rw [exec_zeroInstr, compareZero_of_compare h, hn, List.range_zero]

theorem exec_regInstr_of_no_lanes {rb ra : RegIdx}
    (h : typeRule s.cfg (some (s.typeOf rb)) (s.typeOf ra) = .compare (some d)) (agg : Aggregation) (rel : RegRel)
    (v : Word) :
    exec (regInstr agg rel rb ra v) s =
      branchIf (aggregate agg [] (regLane agg rel d (s.value rb) (s.value ra))) 4 v s := by
  rw [exec_regInstr, compareReg_of_compare h, hn, List.range_zero]

end NoLanes

/-! ### The statements -/

/-- Settles O31: each of the eight from the rule of the group branches at any. -/
theorem typeGroupAnyBranches : Obligations.TypeGroupAnyBranches :=
  ⟨groupBranchRule .any .ne 0, groupBranchRule .any .ne 1, groupBranchRule .any .ne 2, groupBranchRule .any .ne 3,
    groupBranchRule .any .eq 0, groupBranchRule .any .eq 1, groupBranchRule .any .eq 2, groupBranchRule .any .eq 3⟩

/-- Settles O32: each of the eight from the rule of the group branches at all. -/
theorem typeGroupAllBranches : Obligations.TypeGroupAllBranches :=
  ⟨groupBranchRule .all .ne 0, groupBranchRule .all .ne 1, groupBranchRule .all .ne 2, groupBranchRule .all .ne 3,
    groupBranchRule .all .eq 0, groupBranchRule .all .eq 1, groupBranchRule .all .eq 2, groupBranchRule .all .eq 3⟩

/-- Settles O43: a register outside the test is in no pair that is aggregated, group 3 pairs three fields only, and the
canonical form changes nothing else. -/
theorem excludedRegistersAreNotTested : Obligations.ExcludedRegistersAreNotTested := by
  refine ⟨fun p hp v t s r ty hr => ?_, fun p hp hthree v t d s => ?_, exec_canonical⟩
  · obtain ⟨agg, rel, g, rfl⟩ := mem_groupForms hp
    have hcond := aggregate_underTest_setType (ne_of_mem_underTest hr) agg rel s ty
    rw [exec_groupInstr, exec_groupInstr, groupTest, groupTest, hcond]
    exact branchIf_setType _ 6 v s r ty
  · obtain ⟨agg, rel, g, rfl⟩ := mem_groupForms hp
    obtain rfl : g = 3 := hthree
    rw [exec_groupInstr, exec_groupInstr, groupTest_three_fieldD]

/-- Settles O44: a group without pairs and a compare without lanes both aggregate over nothing. -/
theorem emptyTestsBranchAsAllAndNotAsAny : Obligations.EmptyTestsBranchAsAllAndNotAsAny := by
  refine ⟨fun v t s ha hb hc => ⟨?_, ?_⟩, fun rb ra v s d hn => ⟨fun htype => ⟨?_, ?_⟩, fun htype => ⟨?_, ?_⟩⟩⟩
  · refine forall_mem_groupForms (agg := .any) fun rel g hd => ?_
    rw [exec_groupInstr_of_untested (underTest_eq_nil ha hb hc hd), branchIf_any_nil]
  · refine forall_mem_groupForms (agg := .all) fun rel g hd => ?_
    rw [exec_groupInstr_of_untested (underTest_eq_nil ha hb hc hd), branchIf_all_nil]
  · refine List.forall_mem_map (l := zeroRels) (f := zeroInstr .any).2 fun rel _ => ?_
    rw [exec_zeroInstr_of_no_lanes hn htype, branchIf_any_nil]
  · refine List.forall_mem_map (l := zeroRels) (f := zeroInstr .all).2 fun rel _ => ?_
    rw [exec_zeroInstr_of_no_lanes hn htype, branchIf_all_nil]
  · refine List.forall_mem_map (l := regRels) (f := regInstr .any).2 fun rel _ => ?_
    rw [exec_regInstr_of_no_lanes hn htype, branchIf_any_nil]
  · refine List.forall_mem_map (l := regRels) (f := regInstr .all).2 fun rel _ => ?_
    rw [exec_regInstr_of_no_lanes hn htype, branchIf_all_nil]

/-- Settles O33: the rule of the mask branch at each of the two placements. -/
theorem typeMaskBranch : Obligations.TypeMaskBranch := by
  intro rd v f
  rw [← maskWord_eq_ofNat]
  exact ⟨fun hv => encode_cbTmask hv rd f,
    fun s => ⟨fun hp => maskBranchRule hp rd v f, fun hp => maskBranchRule hp rd v f⟩⟩

end Sys2Proof.Machine
end

section
/-! The statements of spec/60_exceptions.md: when `exc_type` is raised and what it records, that every stop of a step is
one the spec lists, and that a stop leaves the state and ends the run. -/

namespace Sys2Proof.Machine

/-! ### When an instruction stops (R102, R201) -/

section Exec

variable {i : Instr} {s : State}

/-- An instruction faults only where type handling answers `ExcType`, and the fault carries its own parcel 0 (R201,
R203). -/
theorem exec_fault_inv {f : Fault} (h : exec i s = .fault f) :
    ∃ left right w0, handledTypes i s = some (left, right) ∧ typeRule s.cfg left right = .excType ∧
      i.parcels.head? = some w0 ∧ f = .excType s.pc w0 := by
  rcases exec_shape i s with ⟨_, c, hx⟩ | ⟨left, right, w0, htypes, hrule, hhead, hx⟩ | ⟨_, _, _, _, hx⟩
  · cases h.symm.trans hx
  · exact ⟨left, right, w0, htypes, hrule, hhead, Host.Outcome.fault.inj (h.symm.trans hx)⟩
  · cases h.symm.trans hx

/-- An instruction refuses only a type without descriptor: none is refused as not modelled (R102). -/
theorem exec_refused_inv {r : Refusal} (h : exec i s = .refused r) :
    ∃ left code, handledTypes i s = some (left, code) ∧ typeRule s.cfg left code = .compare none ∧
      r = .unknownType s.pc code := by
  rcases exec_shape i s with ⟨_, c, hx⟩ | ⟨_, _, _, _, _, _, hx⟩ | ⟨left, code, htypes, hrule, hx⟩
  · cases h.symm.trans hx
  · cases h.symm.trans hx
  · exact ⟨left, code, htypes, hrule, Host.Outcome.refused.inj (h.symm.trans hx)⟩

/-- Where type handling answers `ExcType`, the instruction raises it (R201). -/
theorem exec_of_excType {left : Option TypeCode} {right : TypeCode} (htypes : handledTypes i s = some (left, right))
    (hrule : typeRule s.cfg left right = .excType) : ∃ w0, exec i s = .fault (.excType s.pc w0) := by
  rcases exec_shape i s with ⟨hcompare, _⟩ | ⟨_, _, w0, _, _, _, hx⟩ | ⟨_, _, htypes', hnone, _⟩
  · obtain ⟨d, hd⟩ := hcompare left right htypes
    cases hrule.symm.trans hd
  · exact ⟨w0, hx⟩
  · cases htypes.symm.trans htypes'
    cases hrule.symm.trans hnone

theorem exec_excType_iff : (∃ w0, exec i s = .fault (.excType s.pc w0)) ↔
    ∃ left right, handledTypes i s = some (left, right) ∧ typeRule s.cfg left right = .excType := by
  constructor
  · rintro ⟨w0, h⟩
    obtain ⟨left, right, _, htypes, hrule, _, _⟩ := exec_fault_inv h
    exact ⟨left, right, htypes, hrule⟩
  · rintro ⟨left, right, htypes, hrule⟩
    exact exec_of_excType htypes hrule

/-- An instruction faults exactly where type handling answers `ExcType` for its operand types (R201). -/
theorem exec_fault_iff_of_handledTypes {left : Option TypeCode} {right : TypeCode}
    (htypes : handledTypes i s = some (left, right)) :
    (∃ f, exec i s = .fault f) ↔ typeRule s.cfg left right = .excType := by
  constructor
  · rintro ⟨f, h⟩
    obtain ⟨_, _, _, htypes', hrule, _, _⟩ := exec_fault_inv h
    cases htypes.symm.trans htypes'
    exact hrule
  · intro hrule
    obtain ⟨w0, h⟩ := exec_of_excType htypes hrule
    exact ⟨_, h⟩

end Exec

theorem handledTypes_zeroInstr (agg : Aggregation) (rel : ZeroRel) (ra : RegIdx) (v : Word) (s : State) :
    handledTypes (zeroInstr agg rel ra v) s = some (none, s.typeOf ra) := by
  cases agg <;> cases rel <;> rfl

theorem handledTypes_regInstr (agg : Aggregation) (rel : RegRel) (rb ra : RegIdx) (v : Word) (s : State) :
    handledTypes (regInstr agg rel rb ra v) s = some (some (s.typeOf rb), s.typeOf ra) := by
  cases agg <;> cases rel <;> rfl

/-- The default rule answers `ExcType` for two different types and for nothing else (R102, D8). -/
theorem defaultTypeRule_eq_excType_iff (c : Config) (left : Option TypeCode) (right : TypeCode) :
    defaultTypeRule c left right = .excType ↔ ∃ t, left = some t ∧ t ≠ right := by
  cases left <;> simp [defaultTypeRule]

/-! ### Everything a step can do (R100, R205, R227) -/

/-- A parcel is missing that the form at `pc` needs: parcel 0, parcel 1 of a defined word, or parcel 2 of a 48-bit form
(R35). -/
def ParcelMissing (s : State) : Prop :=
  s.readParcel s.pc = none ∨
    ∃ w0, s.readParcel s.pc = some w0 ∧
      ((∃ mk, decodeForm w0 = .ok (.short mk) ∧ s.readParcel (s.pc + 2#32) = none) ∨
      (∃ mk, decodeForm w0 = .ok (.long mk) ∧
        (s.readParcel (s.pc + 2#32) = none ∨ s.readParcel (s.pc + 4#32) = none)))

/-- The cases of a step from a state without a record, each with what the step answers there. -/
inductive StepCase (s : State) : Prop where
  | halted (hhalt : s.pc ∈ s.cfg.haltSet) (hstep : step s = .fault (.halted s.pc))
  | misaligned (halive : Alive s) (hodd : s.pc.getLsbD 0 = true) (hstep : step s = .refused (.misalignedPc s.pc))
  | missing (halive : Alive s) (heven : s.pc.getLsbD 0 = false) (hmissing : ParcelMissing s)
      (hstep : step s = .fault (.stuck s.pc))
  | undefined (halive : Alive s) (heven : s.pc.getLsbD 0 = false) (w0 : Parcel) (err : DecodeError)
      (h0 : s.readParcel s.pc = some w0) (herr : decodeForm w0 = .error err)
      (hstep : step s = .refused (.unknownEncoding s.pc w0))
  | executes (halive : Alive s) (heven : s.pc.getLsbD 0 = false) (ps : List Parcel) (i : Instr)
      (hmem : HoldsParcels s s.pc ps) (hdec : decode ps = .ok (i, [])) (hstep : step s = exec i s)

theorem step_of_halt_address {s : State} (hrec : s.record = none) (hhalt : s.pc ∈ s.cfg.haltSet) :
    step s = .fault (.halted s.pc) := by
  simp [step, State.ended?, hrec, hhalt]

section DefinedWord

variable {s : State} (halive : Alive s) (heven : s.pc.getLsbD 0 = false) {w0 : Parcel}
  (h0 : s.readParcel s.pc = some w0)
include halive heven h0

/-- The step at a 32-bit code word: parcel 1 is there or is not (R35, R59). -/
theorem stepCase_of_short {mk : Word → Instr} (hform : decodeForm w0 = .ok (.short mk)) : StepCase s := by
  obtain ⟨hstuck, _⟩ := step_of_short halive heven h0 hform
  cases h1 : s.readParcel (s.pc + 2#32) with
  | none => exact .missing halive heven (.inr ⟨w0, h0, .inl ⟨mk, hform, h1⟩⟩) (hstuck h1)
  | some e =>
    have hmem : HoldsParcels s s.pc [w0, e] := holdsParcels_cons h0 (holdsParcels_cons h1 (holdsParcels_nil s _))
    have hdec := decode_short_ok hform e
    exact .executes halive heven _ _ hmem hdec (step_eq_exec_of_holdsParcels halive heven hmem hdec)

/-- The step at a 48-bit code word: parcels 1 and 2 are there or one is not (R35, R59). -/
theorem stepCase_of_long {mk : Word → Parcel → Instr} (hform : decodeForm w0 = .ok (.long mk)) : StepCase s := by
  obtain ⟨hstuck, _⟩ := step_of_long halive heven h0 hform
  have stuck (h : s.readParcel (s.pc + 2#32) = none ∨ s.readParcel (s.pc + 4#32) = none) : StepCase s :=
    .missing halive heven (.inr ⟨w0, h0, .inr ⟨mk, hform, h⟩⟩) (hstuck h)
  cases h1 : s.readParcel (s.pc + 2#32) with
  | none => exact stuck (.inl h1)
  | some e =>
    cases h2 : s.readParcel (s.pc + 4#32) with
    | none => exact stuck (.inr h2)
    | some f =>
      rw [← add_two_add_two] at h2
      have hmem : HoldsParcels s s.pc [w0, e, f] :=
        holdsParcels_cons h0 (holdsParcels_cons h1 (holdsParcels_cons h2 (holdsParcels_nil s _)))
      have hdec := decode_long_ok hform e f
      exact .executes halive heven _ _ hmem hdec (step_eq_exec_of_holdsParcels halive heven hmem hdec)

end DefinedWord

/-- The cases are all there are: those of R100, in its order. -/
theorem stepCase_of_no_record {s : State} (hrec : s.record = none) : StepCase s := by
  by_cases hhalt : s.pc ∈ s.cfg.haltSet
  · exact .halted hhalt (step_of_halt_address hrec hhalt)
  have halive : Alive s := ⟨hrec, hhalt⟩
  cases heven : s.pc.getLsbD 0 with
  | true => exact .misaligned halive heven (step_of_odd_pc halive heven)
  | false =>
    cases h0 : s.readParcel s.pc with
    | none => exact .missing halive heven (.inl h0) (step_of_missing_parcel0 halive heven h0)
    | some w0 =>
      cases hform : decodeForm w0 with
      | error err => exact .undefined halive heven w0 err h0 hform (step_of_undefined_word halive heven h0 hform)
      | ok form =>
        cases form with
        | short mk => exact stepCase_of_short halive heven h0 hform
        | long mk => exact stepCase_of_long halive heven h0 hform

/-- The parcel 0 that is fetched is the code word of the instruction (R51). -/
theorem head?_of_decode {ps : List Parcel} {i : Instr} (h : decode ps = .ok (i, [])) :
    ps.head? = i.parcels.head? := by
  obtain ⟨_, rfl⟩ := wf_parcels_of_decode h
  rw [List.append_nil]

theorem readParcel_of_head? {s : State} {a : Word} {ps : List Parcel} {w : Parcel} (hmem : HoldsParcels s a ps)
    (hhead : ps.head? = some w) : s.readParcel a = some w := by
  obtain ⟨tail, rfl⟩ := List.head?_eq_some_iff.1 hhead
  exact (holdsParcels_cons_inv hmem).1

/-! ### What a stop leaves (R27, R203) -/

/-- The outcome that a record stands for leaves that record (R27). -/
theorem recordOf_outcome (r : EndRecord) : recordOf r.outcome = some r := by
  cases r <;> rfl

theorem outcome_of_recordOf {o : Result} {r : EndRecord} (h : recordOf o = some r) : r.outcome = o := by
  unfold recordOf at h
  split at h <;> cases h <;> rfl

/-- An outcome without a next state leaves the state before it, but for the record (R27, R203). -/
theorem settle_of_not_next {o : Result} (h : ∀ t, o ≠ .next t) (s : State) :
    s.settle o = { s with record := recordOf o } := by
  cases o with
  | next t => exact absurd rfl (h t)
  | fault f => rfl
  | refused r => rfl

section Stop

variable {s : State} (h : ∀ t, step s ≠ .next t)
include h

theorem advance_of_not_next : advance s = { s with record := recordOf (step s) } := settle_of_not_next h s

/-- The end that a step answered is answered again (R27, log 31): it is recorded, or it is a halt, which leaves the
state altogether. -/
theorem step_advance_of_not_next : step (advance s) = step s := by
  rw [advance_of_not_next h]
  cases hend : recordOf (step s) with
  | some r => rw [step_of_record rfl, outcome_of_recordOf hend]
  | none =>
    have hrec : s.record = none := by
      refine Option.eq_none_iff_forall_ne_some.2 fun r hr => ?_
      rw [step_of_record hr, recordOf_outcome] at hend
      cases hend
    rw [← hrec]

theorem advance_advance_of_not_next : advance (advance s) = advance s := by
  have hagain := step_advance_of_not_next h
  have hstop : ∀ t, step (advance s) ≠ .next t := hagain ▸ h
  rw [advance_of_not_next hstop, hagain, advance_of_not_next h]

end Stop

/-! ### The statements -/

/-- Settles O19: case by case of a step; where an instruction is executed, by what can stop it. -/
theorem refusalsAndFaultsAreTheSpecs : Obligations.RefusalsAndFaultsAreTheSpecs := by
  intro s hrec
  constructor
  · intro r h
    cases stepCase_of_no_record hrec with
    | halted _ hstep => cases h.symm.trans hstep
    | missing _ _ _ hstep => cases h.symm.trans hstep
    | misaligned halive hodd hstep =>
      cases h.symm.trans hstep
      exact ⟨halive.2, .inl ⟨rfl, hodd⟩⟩
    | undefined halive heven w0 err h0 herr hstep =>
      cases h.symm.trans hstep
      exact ⟨halive.2, .inr (.inl ⟨heven, w0, err, rfl, h0, herr⟩)⟩
    | executes halive heven ps i hmem hdec hstep =>
      obtain ⟨left, code, htypes, hrule, hr⟩ := exec_refused_inv (hstep.symm.trans h)
      exact ⟨halive.2, .inr (.inr ⟨heven, ps, i, left, code, hmem, hdec, htypes, hrule, hr⟩)⟩
  · intro f h
    cases stepCase_of_no_record hrec with
    | misaligned _ _ hstep => cases h.symm.trans hstep
    | undefined _ _ _ _ _ _ hstep => cases h.symm.trans hstep
    | executes halive heven ps i hmem hdec hstep =>
      obtain ⟨left, right, w0, htypes, hrule, hhead, hf⟩ := exec_fault_inv (hstep.symm.trans h)
      rw [← head?_of_decode hdec] at hhead
      exact .inl ⟨halive.2, heven, ps, i, w0, left, right, hmem, hdec, hhead, htypes, hrule, hf⟩
    | missing halive heven hmissing hstep =>
      cases h.symm.trans hstep
      exact .inr (.inl ⟨halive.2, heven, rfl, hmissing⟩)
    | halted hhalt hstep =>
      cases h.symm.trans hstep
      exact .inr (.inr ⟨rfl, hhalt⟩)

/-- Settles O18: the end is recorded beside the state, or is a halt, and then it is answered again. -/
theorem everyEndLeavesTheStateAndEndsTheRun : Obligations.EveryEndLeavesTheStateAndEndsTheRun := by
  intro s h
  exact ⟨by rw [advance_of_not_next h], step_advance_of_not_next h, advance_advance_of_not_next h,
    fun ⟨r, hr⟩ => by rw [hr]; rfl, fun p hp => by rw [hp]; rfl, fun p hp => by rw [hp]; rfl,
    fun p w hp => by rw [hp]; rfl⟩

/-- Settles O17: among the faults of a step, `exc_type` is the one of the instruction that memory holds at `pc`. -/
theorem excTypeIsRecordedPrecisely : Obligations.ExcTypeIsRecordedPrecisely := by
  intro s p w hrec h
  rcases (refusalsAndFaultsAreTheSpecs s hrec).2 _ h with
    ⟨_, _, ps, _, _, _, _, hmem, _, hhead, _, _, hf⟩ | ⟨_, _, hf, _⟩ | ⟨hf, _⟩ <;> cases hf
  have hstop : ∀ t, step s ≠ .next t := fun t ht => by cases h.symm.trans ht
  refine ⟨rfl, readParcel_of_head? hmem hhead, ?_, ?_, rfl, advance_advance_of_not_next hstop⟩
  · rw [advance_of_not_next hstop, h, recordOf]
  · rw [h, runEnd]

/-- Settles O34: type handling alone decides whether an instruction faults, and the default rule answers `ExcType` for
two different types only. -/
theorem excTypeExactlyWhenTheRuleSays : Obligations.ExcTypeExactlyWhenTheRuleSays := by
  refine ⟨fun i s => ⟨exec_excType_iff, fun f h => ?_⟩, fun s hnone => ⟨?_, ?_⟩⟩
  · obtain ⟨_, _, w0, _, _, _, hf⟩ := exec_fault_inv h
    exact ⟨w0, hf⟩
  · rintro mk hmk ra v f h
    obtain ⟨agg, rel, rfl⟩ := mem_zeroForms hmk
    have hrule := (exec_fault_iff_of_handledTypes (handledTypes_zeroInstr agg rel ra v s)).1 ⟨f, h⟩
    rw [typeRule_of_no_entries hnone, defaultTypeRule_eq_excType_iff] at hrule
    obtain ⟨_, ht, _⟩ := hrule
    cases ht
  · rintro mk hmk rb ra v
    obtain ⟨agg, rel, rfl⟩ := mem_regForms hmk
    rw [exec_fault_iff_of_handledTypes (handledTypes_regInstr agg rel rb ra v s), typeRule_of_no_entries hnone,
      defaultTypeRule_eq_excType_iff]
    simp

end Sys2Proof.Machine
end

section
/-! The statements of spec/70_reset_and_hazards.md: that a step keeps the launch premises, that the reset state meets
them, and that a run halts at an address of `HALT_SET` before the fetch. -/

namespace Sys2Proof.Machine

/-- Every register of the reset state has the width that its configuration asks (R12). -/
theorem reset_widthsOk : State.reset.widthsOk = true := by decide

/-- A halt leaves no record, so the run stays in the state it halted in (R227). -/
theorem advance_of_halt_address {s : State} (hrec : s.record = none) (hhalt : s.pc ∈ s.cfg.haltSet) :
    advance s = s := by
  have hstep := step_of_halt_address hrec hhalt
  have hstop : ∀ t, step s ≠ .next t := fun t ht => by cases hstep.symm.trans ht
  rw [advance_of_not_next hstop, hstep, recordOf, ← hrec]

/-! ### The statements -/

/-- Settles O20: a completed step writes `pc` only, which leaves every premise but the parity of `pc`, and lengths and
offsets are even. -/
theorem stepKeepsLaunchPremises : Obligations.StepKeepsLaunchPremises :=
  fun _ _ => step_keeps_launchOk

/-- Settles O15: without a record the halt address is all that the step looks at. -/
theorem haltAddressEndsTheRunBeforeTheFetch : Obligations.HaltAddressEndsTheRunBeforeTheFetch := by
  intro s hrec hhalt
  have hstep := step_of_halt_address hrec hhalt
  exact ⟨hstep, by rw [hstep, runEnd], rfl, advance_of_halt_address hrec hhalt⟩

/-- Settles O21: the bound on the lanes holds in every state (log 15), the other premises by the reset values. -/
theorem resetMeetsLaunchPremises : Obligations.ResetMeetsLaunchPremises :=
  ⟨{ evenPc := rfl
     noRecord := rfl
     lanes := fun _ _ _ _ hwidth => activeLanes_le _ hwidth _
     memory := reset_mem_wf
     widths := reset_widthsOk }, rfl⟩

end Sys2Proof.Machine
end
